-- ==== Sys2Proof/Word.lean ====
section
/-! DEFINITION. The word types of the block (00_scope.md R11, 30_encoding.md R90): every value is unsigned, bit 0 is the
least significant, and widening is with zeros. -/

namespace Sys2Proof

/-- A byte, 0 to 255 (R11). -/
abbrev Byte := BitVec 8

/-- A 16-bit quantity: `tx_len`, `rx_len`, `rx_expect`, `cur_expected`, the operand `N` (R27, R29, R32, R92). -/
abbrev Half := BitVec 16

/-- A 32-bit command word or register value (R90, R60). -/
abbrev Word := BitVec 32

end Sys2Proof
end

