-- ==== Sys2Proof/Syntax.lean ====
section
/-! DEFINITION. The commands of the block, one constructor per row of the opcode map (30_encoding.md R94, R97). Operands
have the width of their field (R92), so no operand out of its field's range can be written down. -/

namespace Sys2Proof

/-- A command (R94). -/
inductive Instr where
  | nop                                      -- NOP
  | openPort   (port : Byte)                 -- OPEN p
  | close                                    -- CLOSE
  | clearFlags                               -- CLEAR_FLAGS
  | crcInit                                  -- CRC_INIT
  | crcByte    (b : Byte)                    -- CRC_BYTE b
  | crcTx                                    -- CRC_TX
  | crcCheck                                 -- CRC_CHECK
  | send       (append : Bool)               -- SEND a
  | receive    (expected : Half)             -- RECEIVE n
  | transfer   (append : Bool) (expected : Half)   -- TRANSFER a, n
  | monStart   (filter : Byte)               -- MON_START f
  | monStop                                  -- MON_STOP
  deriving DecidableEq, Repr

end Sys2Proof
end

