-- ==== Sys2Proof/Decode.lean ====
section
/-! DEFINITION. Decoding a command word (30_encoding.md R90 to R97) and, after it, encoding one (R98). -/

namespace Sys2Proof

/-- What `decode` answers (R97): a command, or `ILLEGAL(OP)` with the reserved opcode (R95). -/
inductive Decoded where
  | cmd     (i : Instr)
  | illegal (op : Byte)
  deriving DecidableEq, Repr

/-- `OP = w[31:24]` (R90). -/
def opField (w : Word) : Byte := w.extractLsb' 24 8

/-- `A = w[16]` (R92). -/
def aField (w : Word) : Bool := w.getLsbD 16

/-- `N = w[15:0]` (R92). -/
def nField (w : Word) : Half := w.extractLsb' 0 16

/-- `B = w[7:0]` (R92). -/
def bField (w : Word) : Byte := w.extractLsb' 0 8

/-- R97: total on every 32-bit word; the command is selected by `OP` alone and unused bits are ignored (R93). -/
def decode (w : Word) : Decoded :=
  match (opField w).toNat with
  | 0x00 => .cmd .nop
  | 0x01 => .cmd (.openPort (bField w))
  | 0x02 => .cmd .close
  | 0x03 => .cmd .clearFlags
  | 0x10 => .cmd .crcInit
  | 0x11 => .cmd (.crcByte (bField w))
  | 0x12 => .cmd .crcTx
  | 0x13 => .cmd .crcCheck
  | 0x20 => .cmd (.send (aField w))
  | 0x21 => .cmd (.receive (nField w))
  | 0x22 => .cmd (.transfer (aField w) (nField w))
  | 0x30 => .cmd (.monStart (bField w))
  | 0x31 => .cmd .monStop
  | _    => .illegal (opField w)

/-- The command of a decoded word, none for a reserved opcode. -/
def Decoded.instr? : Decoded → Option Instr
  | .cmd i => some i
  | .illegal _ => none

/-- The word that the opcode table's `nbits` bits `w` stand for: the bits above `nbits` are 0. -/
def tableWord (nbits w : Nat) : Word := BitVec.ofNat 32 (w % 2 ^ nbits)

/-- The command the decoder reads from an opcode-table row's bits. A command is one whole 32-bit word (R90, R96), so the
table's numbering is the word's own. -/
def decodeTableWord (nbits w : Nat) : Option Instr := (decode (tableWord nbits w)).instr?

/-- The opcode of each command (R94). -/
def Instr.opcode : Instr → Byte
  | .nop => 0x00
  | .openPort _ => 0x01
  | .close => 0x02
  | .clearFlags => 0x03
  | .crcInit => 0x10
  | .crcByte _ => 0x11
  | .crcTx => 0x12
  | .crcCheck => 0x13
  | .send _ => 0x20
  | .receive _ => 0x21
  | .transfer _ _ => 0x22
  | .monStart _ => 0x30
  | .monStop => 0x31

/-- A word from its fields as R90 lays them out: `OP`, seven ignored bits written as 0 (R93), `A`, and the low half. -/
def packWord (op : Byte) (a : Bool) (low : Half) : Word := op ++ 0#7 ++ BitVec.ofBool a ++ low

/-- R98: the word of a command, its unused bits 0. -/
def encode : Instr → Word
  | .nop => packWord 0x00 false 0
  | .openPort p => packWord 0x01 false (p.zeroExtend 16)
  | .close => packWord 0x02 false 0
  | .clearFlags => packWord 0x03 false 0
  | .crcInit => packWord 0x10 false 0
  | .crcByte b => packWord 0x11 false (b.zeroExtend 16)
  | .crcTx => packWord 0x12 false 0
  | .crcCheck => packWord 0x13 false 0
  | .send a => packWord 0x20 a 0
  | .receive n => packWord 0x21 false n
  | .transfer a n => packWord 0x22 a n
  | .monStart f => packWord 0x30 false (f.zeroExtend 16)
  | .monStop => packWord 0x31 false 0

/-- The bits of the word a command's format uses, `OP` among them (R91); every other bit is ignored (R93). -/
def Instr.usedBits : Instr → Word
  | .nop => 0xFF000000
  | .openPort _ => 0xFF0000FF
  | .close => 0xFF000000
  | .clearFlags => 0xFF000000
  | .crcInit => 0xFF000000
  | .crcByte _ => 0xFF0000FF
  | .crcTx => 0xFF000000
  | .crcCheck => 0xFF000000
  | .send _ => 0xFF010000
  | .receive _ => 0xFF00FFFF
  | .transfer _ _ => 0xFF01FFFF
  | .monStart _ => 0xFF0000FF
  | .monStop => 0xFF000000

end Sys2Proof
end

