-- ==== Sys2Proof/Config.lean ====
section
/-! DEFINITION. What does not change while the block runs and what the spec leaves free: the configuration record
(00_scope.md R8 to R10), the external events the environment chooses among (R6, 43_control.md R243), and the free values. -/

namespace Sys2Proof

/-- The configuration parameters of R9, one record; `base` is the parameter BASE of 20_memory.md R60. -/
structure Config where
  base        : Nat    -- BASE, R60
  tickUs      : Nat    -- TICK_US, R8
  tIfd        : Nat    -- T_IFD
  tRx         : Nat    -- T_RX
  tSettle     : Nat    -- T_SETTLE
  tGap        : Nat    -- T_GAP
  baud        : Nat    -- BAUD
  rxFifoDepth : Nat    -- RX_FIFO_DEPTH
  monBufMax   : Nat    -- MON_BUF_MAX
  verbose     : Bool   -- VERBOSE
  deriving DecidableEq, Repr

/-- The defaults of R9. `base` is open in the spec (R60): the 0 here is a DESIGN CHOICE (unsafe, log entry 2). -/
def Config.default : Config where
  base := 0
  tickUs := 1000
  tIfd := 25
  tRx := 100
  tSettle := 50
  tGap := 25
  baud := 9600
  rxFifoDepth := 4096
  monBufMax := 256
  verbose := false

/-- TXBUF_SIZE and RXBUF_SIZE of R9: fixed by the register map, so no field of the record. -/
abbrev Config.bufSize : Nat := 256

/-- The size in bytes of the host register space (R60). -/
abbrev Config.windowSize : Nat := 4096

/-- One access on the host register bus (R60): its width in bytes, its absolute address, and the data of a write.
The width is any number, because R62 says what the block does with a width other than 4. -/
inductive Access where
  | read  (width addr : Nat)
  | write (width addr : Nat) (v : Word)
  deriving DecidableEq, Repr, Inhabited

/-- The external events (R6, R243). `host` is an agent issuing an access and `resume` is the step by which an agent whose
access holds performs it (60_exceptions.md R281). `openAnswer` is R99's `DEV OpenOk` or `DEV OpenFail`, for an OPEN in the
event directly after it. `writeFail k` and `reset k` carry the environment's draw `k` (41_transport.md R164,
70_reset_and_hazards.md R300; DESIGN CHOICE, safe, log entry 12). -/
inductive Event where
  | host       (agent : Nat) (acc : Access)
  | resume     (agent : Nat)
  | openAnswer (ok : Bool)
  | rxByte     (b : Byte)
  | rxError
  | writeOk
  | writeFail  (k : Nat)
  | tick
  | reset      (k : Nat)
  deriving DecidableEq, Repr, Inhabited

/-- Free value: the byte that draw number `n` of an UNWRITTEN buffer entry yields (10_state.md R26, R28), log entry 4. -/
opaque Config.freeByte (n : Nat) : Byte

/-- Free value: the open result that draw number `n` yields (41_transport.md R165), log entry 5. -/
opaque Config.freeOpenOk (n : Nat) : Bool

/-- Free value: the external event the environment chooses at draw number `n` when the state lists no further event
(00_scope.md R7, 93_implementation_defined.md S2), log entry 1. -/
opaque Config.freeEvent (n : Nat) : Event

end Sys2Proof
end

