-- ==== Sys2Proof/Machine/State.lean ====
section
/-! DEFINITION. The state of the block as plain data (10_state.md R20 to R44, R55), the record of its ports, the
environment's part, the reasons a step can stop, and the state after Reset. -/

namespace Sys2Proof.Machine

/-- R23. -/
inductive Conn where
  | closed | opened
  deriving DecidableEq, Repr

/-- The transport sequencer's control state (R30). -/
inductive Phase where
  | idle | sWrite | sIfd | rFixed | rSettle
  deriving DecidableEq, Repr

/-- The monitor's state (R37). -/
inductive MonState where
  | midle | running | stopped
  deriving DecidableEq, Repr

/-- The error codes of 60_exceptions.md R260; their numbers are `ErrCode.code` in Flags.lean. Codes 0x0C to 0xFF never
occur, so there is no term for them. -/
inductive ErrCode where
  | none | connectionError | writeError | receiveTimeout | lengthMismatch | crcMismatch | readError
  | invalidArgument | notOpen | modeConflict | badState | illegalCommand
  deriving DecidableEq, Repr

/-- A host register (20_memory.md R61). -/
inductive Reg where
  | cmd | status | crcAcc | txLen | rxLen | rxExpect | rxAvail | monFilter
  | txBuf (i : Fin 256)
  | rxBuf (i : Fin 256)
  deriving DecidableEq, Repr

/-- An event of the monitor report port (R43). -/
inductive Report where
  | monFrame (s : List Byte)
  | monReadError
  deriving DecidableEq, Repr

/-- An event of the trace port (R43, 43_control.md R246). -/
inductive TraceEvent where
  | tx (s : List Byte)
  | rx (s : List Byte)
  deriving DecidableEq, Repr

/-- An operation the block drives on the device (41_transport.md R160). The fifth, read, is the taking of a byte from
`rxFifo` and has no entry of its own (DESIGN CHOICE, safe, log entry 9). -/
inductive DevOp where
  | openPort (port : Byte) (baud : Nat)
  | close
  | drain
  | write (s : List Byte)
  deriving DecidableEq, Repr

/-- What a host agent sees of an access that performed (20_memory.md R66): a read's word, a write's end, or the error
response. -/
inductive BusAnswer where
  | data (v : Word)
  | done
  | busError
  deriving DecidableEq, Repr

/-- One entry of the record of host accesses: which agent saw what (DESIGN CHOICE, safe, log entry 8). -/
structure BusReply where
  agent : Nat
  answer : BusAnswer
  deriving DecidableEq, Repr

/-- An access an agent has issued and that holds (60_exceptions.md R281, 20_memory.md R71; DESIGN CHOICE, safe, log entry
7), with the device's answer announced for it (30_encoding.md R99, log entry 5). -/
structure HeldAccess where
  agent : Nat
  acc : Access
  openAnswer : Option Bool
  deriving DecidableEq, Repr

/-- `array[256] of (byte or UNWRITTEN)` (R26, R28): the written entries as pairs of index and byte, the indices strictly
rising and below 256. An entry not listed is UNWRITTEN (log entries 4, 15). -/
abbrev Memory := List Host.Cell

/-- The indices rise strictly and are at least `lo`. -/
def Memory.risingFrom : Nat → Memory → Bool
  | _, [] => true
  | lo, (a, _) :: m => lo ≤ a && Memory.risingFrom (a + 1) m

/-- The canonical form: strictly rising indices, all of them entries of the array. -/
def Memory.wf (m : Memory) : Bool := Memory.risingFrom 0 m && m.all fun c => c.1 < Config.bufSize

/-- The state. The first block is the spec's own record (R20), field by field. The second holds the output ports (R43),
which the spec calls observations and Reset does not change. The third is the model's own: the device operations and bus
answers the environment sees, and the environment's part. -/
structure State where
  conn        : Conn
  accHi       : Byte
  accLo       : Byte
  txbuf       : Memory
  txLen       : Half
  rxbuf       : Memory
  rxLen       : Half
  rxExpect    : Half
  phase       : Phase
  tmr         : Nat
  curTransfer : Bool
  curExpected : Half
  txShadow    : List Byte
  rxFifo      : List Byte
  err         : ErrCode
  rxOvr       : Bool
  monOvf      : Bool
  monErr      : Bool
  monState    : MonState
  monFilter   : Byte
  monStopReq  : Bool
  monBuf      : List Byte
  monOvfPend  : Bool
  mtmr        : Nat
  -- the output ports, oldest event first (R43)
  wire        : List Byte
  reports     : List Report
  trace       : List TraceEvent
  -- the model's own record of the device interface and of the host bus, oldest first
  devOps      : List DevOp
  bus         : List BusReply
  -- the configuration, which no step changes (R9)
  cfg         : Config
  -- the environment: the coming external events in the order they occur, the accesses that hold, the device's
  -- answer announced for an OPEN in the very next event (R99), and the number of free draws made so far
  inputs      : List Event
  held        : List HeldAccess
  openAnswer  : Option Bool
  draws       : Nat
  deriving DecidableEq, Repr

/-- Why the machine stops. No command and no failure the spec describes is here (60_exceptions.md R278): these are
choices of the environment that the spec gives no move. -/
inductive Fault where
  /-- Raised by `step` on a listed event that its rule does not enable: RxError with no read pending (R163), a write result
  outside S_WRITE or one with `k` above the frame's length (R164), a resume of an agent whose access still holds or that
  has none (R281). Safe: the hardware has no such transition (log entry 11). -/
  | notEnabled (e : Event)
  /-- Raised by `step` on a host access outside the 4096-byte window at BASE, the only space the host reaches (R60). Safe:
  such an access does not reach the block (log entry 11). -/
  | outsideWindow (addr : Nat)
  deriving DecidableEq, Repr

/-- Why the model gives no meaning. -/
inductive Refusal where
  /-- Raised by `exec` for a command without a meaning yet. Safe. No arm raises it. -/
  | notModelled (mnemonic : String)
  /-- Raised by `step` for a configuration that breaks R9 or R10, which the spec says to refuse (R10, R278). Safe. -/
  | illFormedConfig
  deriving DecidableEq, Repr

/-- The outcome of a step of this machine. -/
abbrev Outcome := Host.Outcome State Fault Refusal

/-- The state right after Reset (R55, R302): the spec gives every field of its record a value. The ports are empty, the
configuration is the default of R9, and the environment lists nothing (log entries 1, 2, 6). -/
def State.reset : State where
  conn := .closed
  accHi := 0xFF
  accLo := 0xFF
  txbuf := []
  txLen := 0
  rxbuf := []
  rxLen := 0
  rxExpect := 0
  phase := .idle
  tmr := 0
  curTransfer := false
  curExpected := 0
  txShadow := []
  rxFifo := []
  err := .none
  rxOvr := false
  monOvf := false
  monErr := false
  monState := .midle
  monFilter := 0
  monStopReq := false
  monBuf := []
  monOvfPend := false
  mtmr := 0
  wire := []
  reports := []
  trace := []
  devOps := []
  bus := []
  cfg := Config.default
  inputs := []
  held := []
  openAnswer := none
  draws := 0

end Sys2Proof.Machine
end

