-- ==== Sys2Proof/Machine/Ops.lean ====
section
/-! DEFINITION. The shared operations: one entry of a buffer, the free draws, the output ports, and the analogue of taking
an exception here, which is rejecting a command or completing one with an error code (60_exceptions.md R271 to R273).
No handler runs, so nothing returns (R274). -/

namespace Sys2Proof.Machine

/-! ### The buffers (10_state.md R26, R28) -/

/-- Entry `a`: its byte, or none for UNWRITTEN. -/
def Memory.read : Memory → Nat → Option Byte
  | [], _ => none
  | (x, b) :: m, a => if a = x then some b else Memory.read m a

/-- Put byte `b` at index `a`, keeping the indices strictly rising. -/
def Memory.insert (a : Nat) (b : Byte) : Memory → Memory
  | [] => [(a, b)]
  | (x, c) :: m =>
    if a < x then (a, b) :: (x, c) :: m
    else if a = x then (a, b) :: m
    else (x, c) :: Memory.insert a b m

/-- Write entry `a`. The array has 256 entries (R26, R28): an index beyond them names none. -/
def Memory.write (m : Memory) (a : Nat) (b : Byte) : Memory :=
  if a < Config.bufSize then Memory.insert a b m else m

/-- Write the bytes in order from entry `a` on. -/
def Memory.writeAll (m : Memory) (a : Nat) : List Byte → Memory
  | [] => m
  | b :: bs => Memory.writeAll (m.write a b) (a + 1) bs

/-- One use of a buffer entry with `n` draws made before: an UNWRITTEN entry is a fresh draw, one draw per use (R26, R28).
Answers the byte and the number of draws made. -/
def useEntry (entry : Option Byte) (n : Nat) : Byte × Nat :=
  match entry with
  | some b => (b, n)
  | none => (Config.freeByte n, n + 1)

/-- Use the `k` entries of `m` from `a` on, in order. -/
def useEntries (m : Memory) (a : Nat) : Nat → Nat → List Byte × Nat
  | 0, n => ([], n)
  | k + 1, n =>
    let first := useEntry (m.read a) n
    let rest := useEntries m (a + 1) k first.2
    (first.1 :: rest.1, rest.2)

/-! ### The ports (10_state.md R43) -/

/-- `emit_wire(s)` (00_scope.md R12). -/
def emitWire (bs : List Byte) (s : State) : State := { s with wire := s.wire ++ bs }

/-- `report(e)` (R12). -/
def report (e : Report) (s : State) : State := { s with reports := s.reports ++ [e] }

/-- `trace(e)` under its guard VERBOSE (43_control.md R246). -/
def traceIf (e : TraceEvent) (s : State) : State :=
  if s.cfg.verbose then { s with trace := s.trace ++ [e] } else s

/-- Drive operations on the device (41_transport.md R160). -/
def drive (ops : List DevOp) (s : State) : State := { s with devOps := s.devOps ++ ops }

/-- An agent's access has performed with this answer (20_memory.md R66). A device's answer announced for this access is for
no later one (30_encoding.md R99, log entry 5). -/
def answer (agent : Nat) (a : BusAnswer) (s : State) : State :=
  { s with bus := s.bus ++ [⟨agent, a⟩], openAnswer := none }

/-! ### Rejecting and completing a command (60_exceptions.md R271 to R273) -/

/-- `err <- e`: a command records its result (R271). -/
def setErr (e : ErrCode) (s : State) : State := { s with err := e }

/-- `reject(e)`: `err <- e` and nothing else (R272). -/
def reject (e : ErrCode) (s : State) : State := setErr e s

/-- The first failing check decides the error (R262). A check is whether it fails, and its code. -/
def firstError : List (Bool × ErrCode) → Option ErrCode
  | [] => none
  | (fails, e) :: rest => if fails then some e else firstError rest

/-- A command with its acceptance checks in order: rejected with the code of the first that fails, otherwise performed
(R262, 43_control.md R242). -/
def accepting (checks : List (Bool × ErrCode)) (perform : State → State) (s : State) : Outcome :=
  match firstError checks with
  | some e => .next (reject e s)
  | none => .next (perform s)

/-- `complete(e)` ends a transport command (41_transport.md R186). -/
def complete (e : ErrCode) (s : State) : State :=
  { s with err := e, phase := .idle, tmr := 0, curTransfer := false, curExpected := 0, txShadow := [] }

/-- Go on from a next state; a fault or a refusal stays. -/
def andThen (o : Outcome) (f : State → State) : Outcome :=
  match o with
  | .next s => .next (f s)
  | .fault r => .fault r
  | .refused r => .refused r

end Sys2Proof.Machine
end

