-- ==== Sys2Proof/Machine/Flags.lean ====
section
/-! DEFINITION. STATUS and the flags: the numbers of the codes, BUSY, the sticky flags, the conditions the acceptance
checks read, and the values the read-only registers read as (10_state.md R30 to R51, 60_exceptions.md R260 to R267). -/

namespace Sys2Proof.Machine

/-- The numbers of R260. -/
def ErrCode.code : ErrCode → Byte
  | .none => 0x00
  | .connectionError => 0x01
  | .writeError => 0x02
  | .receiveTimeout => 0x03
  | .lengthMismatch => 0x04
  | .crcMismatch => 0x05
  | .readError => 0x06
  | .invalidArgument => 0x07
  | .notOpen => 0x08
  | .modeConflict => 0x09
  | .badState => 0x0A
  | .illegalCommand => 0x0B

/-- The 4-bit codes of R30. -/
def Phase.code : Phase → BitVec 4
  | .idle => 0
  | .sWrite => 1
  | .sIfd => 2
  | .rFixed => 3
  | .rSettle => 4

/-- The 2-bit codes of R37. -/
def MonState.code : MonState → BitVec 2
  | .midle => 0
  | .running => 1
  | .stopped => 2

/-- `BUSY = (phase ≠ IDLE)` (R36). -/
def busy (s : State) : Bool := s.phase ≠ .idle

/-- The connection is open (R23). -/
def isOpen (s : State) : Bool := s.conn = .opened

/-- The monitor is RUNNING (R37). -/
def monRunning (s : State) : Bool := s.monState = .running

/-- `tx_len` is above the 256 bytes of the buffer (R27, R266). -/
def txLenTooLong (s : State) : Bool := Config.bufSize < s.txLen.toNat

/-- An expected length is above 256 (R266). -/
def expectTooLong (n : Half) : Bool := Config.bufSize < n.toNat

/-- A monitor filter is above 63 (R266). -/
def filterTooLarge (f : Byte) : Bool := 63 < f.toNat

/-- CLEAR_FLAGS's effect on the sticky flags (43_control.md R241, 10_state.md R35). -/
def clearSticky (s : State) : State := { s with rxOvr := false, monOvf := false, monErr := false }

/-- STATUS (R45). -/
def statusWord (s : State) : Word :=
  (0 : BitVec 12) ++ s.phase.code ++ s.err.code ++ BitVec.ofBool s.monOvf ++ BitVec.ofBool s.rxOvr ++
    BitVec.ofBool s.monErr ++ BitVec.ofBool s.monStopReq ++ s.monState.code ++ BitVec.ofBool (isOpen s) ++
    BitVec.ofBool (busy s)

/-- CRC_ACC (R46). -/
def crcAccWord (s : State) : Word := (0 : BitVec 16) ++ s.accHi ++ s.accLo

/-- TX_LEN (R47). -/
def txLenWord (s : State) : Word := s.txLen.zeroExtend 32

/-- RX_LEN (R48). -/
def rxLenWord (s : State) : Word := s.rxLen.zeroExtend 32

/-- RX_EXPECT (R49). -/
def rxExpectWord (s : State) : Word := s.rxExpect.zeroExtend 32

/-- RX_AVAIL (R50): bits [15:0] are `|rx_fifo|`. -/
def rxAvailWord (s : State) : Word := (BitVec.ofNat 16 s.rxFifo.length).zeroExtend 32

/-- MON_FILTER (R51). -/
def monFilterWord (s : State) : Word := s.monFilter.zeroExtend 32

end Sys2Proof.Machine
end

