-- ==== Sys2Proof/Machine/Control.lean ====
section
/-! DEFINITION. The control commands and the text form of a trace event (43_control.md R240, R241, R247). -/

namespace Sys2Proof.Machine

/-- NOP (R240): changes no state and does not write `err`. -/
def execNop (s : State) : Outcome := .next s

/-- CLEAR_FLAGS (R241). -/
def execClearFlags (s : State) : Outcome := .next (setErr .none (clearSticky s))

/-- A hexadecimal digit in upper case, of a number below 16. -/
def hexDigit (n : Nat) : Char := if n < 10 then Char.ofNat (48 + n) else Char.ofNat (55 + n)

/-- A byte as two upper-case hexadecimal digits. -/
def hexByte (b : Byte) : List Char := [hexDigit (b.toNat / 16), hexDigit (b.toNat % 16)]

/-- The bytes as hexadecimal, separated by single spaces. -/
def hexBytes : List Byte → List Char
  | [] => []
  | [b] => hexByte b
  | b :: c :: bs => hexByte b ++ [' '] ++ hexBytes (c :: bs)

/-- A number of a byte sequence's length in decimal, at most `fuel` digits. -/
def decimal : Nat → Nat → List Char
  | 0, _ => []
  | fuel + 1, n => (if n < 10 then [] else decimal fuel (n / 10)) ++ [Char.ofNat (48 + n % 10)]

/-- The direction and the bytes of a trace event (R246). -/
def TraceEvent.parts : TraceEvent → List Char × List Byte
  | .tx s => (['T', 'X'], s)
  | .rx s => (['R', 'X'], s)

/-- The line of a trace event, `<dir> <N> Bytes:  <hex>` with two spaces after the colon (R247, 90_conflicts.md C2). A
frame has at most 258 bytes, so four digits hold its length. -/
def TraceEvent.line (e : TraceEvent) : List Char :=
  e.parts.1 ++ [' '] ++ decimal 4 e.parts.2.length ++ [' ', 'B', 'y', 't', 'e', 's', ':', ' ', ' '] ++ hexBytes e.parts.2

end Sys2Proof.Machine
end

