-- ==== Sys2Proof/Machine/Operands.lean ====
section
/-! DEFINITION. What a command or an access names: the transmit and receive frames in the buffers, the device's open
result, and the register at an offset of the host window (20_memory.md R60 to R66). -/

namespace Sys2Proof.Machine

/-- `txbuf[0 .. tx_len)` and the draws made after using it (41_transport.md R174, 40_crc.md R142). -/
def txFrame (s : State) : List Byte × Nat := useEntries s.txbuf 0 s.txLen.toNat s.draws

/-- `rxbuf[0 .. rx_len)` and the draws made after using it (41_transport.md R198). -/
def rxFrame (s : State) : List Byte × Nat := useEntries s.rxbuf 0 s.rxLen.toNat s.draws

/-- `draw open_ok` (41_transport.md R165): the answer the device announced for this OPEN (30_encoding.md R99) if there is
one, which it uses up, and a free value if not. Answers the bit, the announcement left and the draws made. -/
def drawOpenOk (s : State) : Bool × Option Bool × Nat :=
  match s.openAnswer with
  | some ok => (ok, none, s.draws)
  | none => (Config.freeOpenOk s.draws, none, s.draws + 1)

/-- The byte offset of an address in the host window, none outside it (R60). -/
def offsetOf (c : Config) (addr : Nat) : Option Nat :=
  if c.base ≤ addr ∧ addr < c.base + Config.windowSize then some (addr - c.base) else none

/-- The register at an aligned offset (R61), none where no row is mapped (R64). -/
def regAt (off : Nat) : Option Reg :=
  if off = 0x000 then some .cmd
  else if off = 0x004 then some .status
  else if off = 0x008 then some .crcAcc
  else if off = 0x00C then some .txLen
  else if off = 0x010 then some .rxLen
  else if off = 0x014 then some .rxExpect
  else if off = 0x018 then some .rxAvail
  else if off = 0x01C then some .monFilter
  else if h : 0x400 ≤ off ∧ off < 0x800 then some (.txBuf ⟨(off - 0x400) / 4, by omega⟩)
  else if h : 0x800 ≤ off ∧ off < 0xC00 then some (.rxBuf ⟨(off - 0x800) / 4, by omega⟩)
  else none

/-- The register an access of `width` bytes at `off` reaches, none for a BusError: the checks of R66 in its order, width
(R62), alignment (R63), mapped row (R64). -/
def target (off width : Nat) : Option Reg :=
  if width ≠ 4 then none
  else if off % 4 ≠ 0 then none
  else regAt off

end Sys2Proof.Machine

namespace Sys2Proof

/-- The width of an access in bytes (R60). -/
def Access.width : Access → Nat
  | .read w _ => w
  | .write w _ _ => w

/-- The address of an access (R60). -/
def Access.addr : Access → Nat
  | .read _ a => a
  | .write _ a _ => a

/-- The access is a write. -/
def Access.isWrite : Access → Bool
  | .read _ _ => false
  | .write _ _ _ => true

end Sys2Proof
end

