-- ==== Sys2Proof/Machine/Monitor.lean ====
section
/-! DEFINITION. The monitor (42_monitor.md): its commands, its read attempts, and what bytes, ticks and read errors do to a
run. -/

namespace Sys2Proof.Machine

/-- MON_START f (R210). -/
def execMonStart (f : Byte) (s : State) : Outcome :=
  accepting [(!isOpen s, .notOpen), (monRunning s, .badState), (filterTooLarge f, .invalidArgument)]
    (fun s => setErr .none
      { s with
        monState := .running, monFilter := f, monStopReq := false, monBuf := [], monOvfPend := false, monErr := false,
        mtmr := 0 }) s

/-- MON_STOP (R212): only a request, and only to a running monitor. -/
def execMonStop (s : State) : Outcome :=
  .next (setErr .none { s with monStopReq := if monRunning s then true else s.monStopReq })

/-- `stop_run()` (R214): a partial frame is discarded. -/
def stopRun (s : State) : State :=
  { s with monState := .stopped, monBuf := [], monOvfPend := false, monStopReq := false, mtmr := 0 }

/-- `next_attempt()` (R214): the loop head, where the cancellation flag is read. -/
def nextAttempt (s : State) : State := if s.monStopReq then stopRun s else { s with mtmr := 0 }

/-- One byte taken by a running monitor (R216); past MON_BUF_MAX it only marks the frame over-length (R220). -/
def monByte (b : Byte) (s : State) : State :=
  nextAttempt
    (if s.monBuf.length < s.cfg.monBufMax then { s with monBuf := s.monBuf ++ [b] } else { s with monOvfPend := true })

/-- The loop of R216 over the bytes of `rx_fifo`: a run that stops leaves the rest. -/
def takeMonitor : List Byte → State → State
  | [], s => { s with rxFifo := [] }
  | b :: bs, s => if monRunning s then takeMonitor bs (monByte b s) else { s with rxFifo := b :: bs }

/-- Quiescence of the monitor (R216). -/
def quiesceMonitor (s : State) : State := if monRunning s then takeMonitor s.rxFifo s else s

/-- The frame in `mon_buf` passes the filter (R218): filter 0, or the first byte equal to it. -/
def passesFilter (s : State) : Bool := s.monFilter = 0 || s.monBuf.head? = some s.monFilter

/-- A timeout closes the frame (R218): an over-length one is discarded and sets `mon_ovf` (R220), one that passes the
filter is reported, any other is dropped silently. -/
def closeFrame (s : State) : State :=
  if s.monBuf.isEmpty then s
  else
    let t :=
      if s.monOvfPend then { s with monOvf := true }
      else if passesFilter s then report (.monFrame s.monBuf) s
      else s
    { t with monBuf := [], monOvfPend := false }

/-- `Tick` on the monitor (R218). -/
def tickMonitor (s : State) : State :=
  if monRunning s then
    let t := { s with mtmr := s.mtmr + 1 }
    if t.mtmr = t.cfg.tGap then nextAttempt (closeFrame t) else t
  else s

/-- `RxError` on the monitor (R222): silent when a stop was already requested. -/
def rxErrorMonitor (s : State) : State :=
  if monRunning s then
    stopRun (if s.monStopReq then s else { report .monReadError s with monErr := true })
  else s

end Sys2Proof.Machine
end

