-- ==== Sys2Proof/Machine/Transport.lean ====
section
/-! DEFINITION. The transport sequencer (41_transport.md): the connection commands, SEND, RECEIVE and TRANSFER, and what
the device's events and the ticks do to a transaction in progress. -/

namespace Sys2Proof.Machine

/-! ### The connection (R170, R172) -/

/-- OPEN p (R170). The device is asked to open the port at BAUD (R165, 00_scope.md R9); its answer decides.
That a success empties `rx_fifo` is the spec's; that it is recorded as no drain operation of the device (R160) is the
model's (DESIGN CHOICE, safe, log entry 9). -/
def execOpen (port : Byte) (s : State) : Outcome :=
  accepting [(isOpen s, .badState)]
    (fun s =>
      let d := drawOpenOk s
      let asked := drive [.openPort port s.cfg.baud] { s with openAnswer := d.2.1, draws := d.2.2 }
      if d.1 then setErr .none { asked with conn := .opened, rxFifo := [] }
      else setErr .connectionError asked) s

/-- Tell the device to close if the connection is open (R160; CLOSE on a closed block has no effect but `err`, R172). -/
def closeDevice (s : State) : State := if isOpen s then drive [.close] s else s

/-- CLOSE (R172). That it empties `rx_fifo` is the spec's; that this is recorded as no drain operation of the device (R160)
is the model's (DESIGN CHOICE, safe, log entry 9). -/
def execClose (s : State) : Outcome :=
  accepting [(monRunning s, .modeConflict)]
    (fun s => setErr .none { closeDevice s with conn := .closed, rxFifo := [] }) s

/-! ### Ending and beginning a receive (R188, R198) -/

/-- The trace of a receive that ends with `rx_len > 0`, when VERBOSE (R198, 43_control.md R246). -/
def traceReceive (s : State) : State :=
  if s.cfg.verbose && s.rxLen ≠ 0 then traceIf (.rx (rxFrame s).1) { s with draws := (rxFrame s).2 } else s

/-- `finish_rx(e)` (R198). -/
def finishRx (e : ErrCode) (s : State) : State := complete e (traceReceive s)

/-- `start_receive(n)` (R188). -/
def startReceive (n : Half) (s : State) : State :=
  { s with rxLen := 0, rxExpect := n, tmr := 0, phase := if n = 0 then .rSettle else .rFixed }

/-! ### SEND, RECEIVE, TRANSFER (R174, R176, R178) -/

/-- The frame SEND hands to the device: the payload, followed by its CRC if `append` (R174). -/
def frameOf (append : Bool) (payload : List Byte) : List Byte := if append then withCrc payload else payload

/-- The accumulator after the frame is built: the appended CRC, or unchanged (R174). -/
def accAfter (append : Bool) (payload : List Byte) (s : State) : Byte × Byte :=
  if append then crc payload else (s.accHi, s.accLo)

/-- The pseudocode of R174 with the transaction context of SEND or of TRANSFER (R178): snapshot, CRC, drain, hand over. -/
def beginSend (append transfer : Bool) (expected : Half) (s : State) : State :=
  let payload := (txFrame s).1
  let frame := frameOf append payload
  traceIf (.tx frame)
    (drive [.drain, .write frame]
      { setAcc (accAfter append payload s) s with
        draws := (txFrame s).2, rxFifo := [], txShadow := frame, curTransfer := transfer, curExpected := expected,
        err := .none, phase := .sWrite })

/-- SEND a (R174). -/
def execSend (append : Bool) (s : State) : Outcome :=
  accepting [(!isOpen s, .notOpen), (monRunning s, .modeConflict), (txLenTooLong s, .invalidArgument)]
    (beginSend append false 0) s

/-- RECEIVE n (R176). -/
def execReceive (n : Half) (s : State) : Outcome :=
  accepting [(!isOpen s, .notOpen), (monRunning s, .modeConflict), (expectTooLong n, .invalidArgument)]
    (fun s => startReceive n (setErr .none { s with curTransfer := false, curExpected := 0 })) s

/-- TRANSFER a, n (R178). -/
def execTransfer (append : Bool) (n : Half) (s : State) : Outcome :=
  accepting [(!isOpen s, .notOpen), (monRunning s, .modeConflict),
      (txLenTooLong s || expectTooLong n, .invalidArgument)]
    (beginSend append true n) s

/-! ### What the device does (R162, R180, R181, R196) -/

/-- `RxByte(b)` (R162), before quiescence. -/
def rxByte (b : Byte) (s : State) : State :=
  if isOpen s then
    if s.rxFifo.length < s.cfg.rxFifoDepth then { s with rxFifo := s.rxFifo ++ [b] } else { s with rxOvr := true }
  else s

/-- `WriteOk` in S_WRITE (R180). -/
def writeOk (s : State) : State := { emitWire s.txShadow s with phase := .sIfd, tmr := 0 }

/-- `WriteFail(k)` in S_WRITE (R181). -/
def writeFail (k : Nat) (s : State) : State := complete .writeError (emitWire (s.txShadow.take k) s)

/-- A transport read is pending (R163). -/
def readPending (s : State) : Bool := s.phase = .rFixed || s.phase = .rSettle

/-- `RxError` in R_FIXED or R_SETTLE (R196). -/
def rxErrorTransport (s : State) : State := if readPending s then finishRx .readError s else s

/-! ### Taking bytes in R_FIXED (R190) -/

/-- `rxbuf[rx_len] <- b; rx_len <- rx_len + 1`. -/
def storeRx (b : Byte) (s : State) : State :=
  { s with rxbuf := s.rxbuf.write s.rxLen.toNat b, rxLen := s.rxLen + 1 }

/-- The loop of R190 over the bytes of `rx_fifo`: the bytes not taken stay. -/
def takeFixed : List Byte → State → State
  | [], s => { s with rxFifo := [] }
  | b :: bs, s => if s.rxLen < s.rxExpect then takeFixed bs (storeRx b s) else { s with rxFifo := b :: bs }

/-- Quiescence in R_FIXED (R190). -/
def quiesceTransport (s : State) : State :=
  if s.phase = .rFixed then
    let t := takeFixed s.rxFifo s
    if t.rxLen = t.rxExpect then finishRx .none t else t
  else s

/-! ### Ticks (R166, R182, R192, R194) -/

/-- The drain at the end of the settle delay (R194): at most 256 bytes, the rest stay and set `rx_ovr`. -/
def drainFree (s : State) : State :=
  let k := min s.rxFifo.length Config.bufSize
  let rest := s.rxFifo.drop k
  { s with
    rxbuf := s.rxbuf.writeAll 0 (s.rxFifo.take k), rxFifo := rest, rxLen := BitVec.ofNat 16 k,
    rxOvr := s.rxOvr || !rest.isEmpty }

/-- `Tick` on the transport (R182, R192, R194); in IDLE and S_WRITE it has none (R166). -/
def tickTransport (s : State) : State :=
  let t := { s with tmr := s.tmr + 1 }
  match s.phase with
  | .idle => s
  | .sWrite => s
  | .sIfd =>
    if t.tmr = t.cfg.tIfd then
      if t.curTransfer then startReceive t.curExpected t else complete .none t
    else t
  | .rFixed =>
    if t.tmr = t.cfg.tRx then
      finishRx (if t.rxLen = 0 then .receiveTimeout else .lengthMismatch) t
    else t
  | .rSettle =>
    if t.tmr = t.cfg.tSettle then
      finishRx (if t.rxFifo.isEmpty then .receiveTimeout else .none) (drainFree t)
    else t

end Sys2Proof.Machine
end

