-- ==== Sys2Proof/Machine/Dispatch.lean ====
section
/-! DEFINITION. The command that a performed CMD write runs (43_control.md R242, steps 2 to 4), one arm per command. -/

namespace Sys2Proof.Machine

def exec (i : Instr) (s : State) : Host.Outcome State Fault Refusal :=
  match i with
  | .nop => Sys2Proof.Machine.execNop s
  | .openPort port => Sys2Proof.Machine.execOpen port s
  | .close => Sys2Proof.Machine.execClose s
  | .clearFlags => Sys2Proof.Machine.execClearFlags s
  | .crcInit => Sys2Proof.Machine.execCrcInit s
  | .crcByte b => Sys2Proof.Machine.execCrcByte b s
  | .crcTx => Sys2Proof.Machine.execCrcTx s
  | .crcCheck => Sys2Proof.Machine.execCrcCheck s
  | .send append => Sys2Proof.Machine.execSend append s
  | .receive expected => Sys2Proof.Machine.execReceive expected s
  | .transfer append expected => Sys2Proof.Machine.execTransfer append expected s
  | .monStart filter => Sys2Proof.Machine.execMonStart filter s
  | .monStop => Sys2Proof.Machine.execMonStop s

end Sys2Proof.Machine
end

