-- ==== Sys2Proof/Machine/Bus.lean ====
section
/-! DEFINITION. The host register bus (20_memory.md R60 to R74): reads and writes of registers, the CMD write (43_control.md
R242), quiescence (R244), and the CMD hold (60_exceptions.md R281). -/

namespace Sys2Proof.Machine

/-- Quiescence (R244): the byte-taking loop of the transport, then the monitor's. Both cannot be active together
(10_state.md R44(a)), and one pass of each leaves nothing to take (DEDUCED, log entry 13). -/
def quiesce (s : State) : State := quiesceMonitor (quiesceTransport s)

/-- A buffer entry's word (10_state.md R53, R54); an UNWRITTEN entry is a fresh draw. -/
def readEntry (entry : Option Byte) (s : State) : Word × State :=
  let u := useEntry entry s.draws
  (u.1.zeroExtend 32, { s with draws := u.2 })

/-- A register's value (10_state.md R45 to R54), and the state with the draw a read of an UNWRITTEN entry makes. -/
def readReg (r : Reg) (s : State) : Word × State :=
  match r with
  | .cmd => (0, s)
  | .status => (statusWord s, s)
  | .crcAcc => (crcAccWord s, s)
  | .txLen => (txLenWord s, s)
  | .rxLen => (rxLenWord s, s)
  | .rxExpect => (rxExpectWord s, s)
  | .rxAvail => (rxAvailWord s, s)
  | .monFilter => (monFilterWord s, s)
  | .txBuf i => readEntry (s.txbuf.read i.val) s
  | .rxBuf i => readEntry (s.rxbuf.read i.val) s

/-- A CMD write of `w` that performs (R242, steps 1 to 4): a reserved opcode is rejected first (60_exceptions.md R262,
R265), and any other word runs its command. -/
def issueCommand (w : Word) (s : State) : Outcome :=
  match decode w with
  | .illegal _ => .next (reject .illegalCommand s)
  | .cmd i => exec i s

/-- A register write (10_state.md R47, R52, R53); a write to a read-only register is ignored (R65). -/
def writeReg (r : Reg) (v : Word) (s : State) : Outcome :=
  match r with
  | .cmd => issueCommand v s
  | .txLen => .next { s with txLen := v.extractLsb' 0 16 }
  | .txBuf i => .next { s with txbuf := s.txbuf.write i.val (v.extractLsb' 0 8) }
  | .status => .next s
  | .crcAcc => .next s
  | .rxLen => .next s
  | .rxExpect => .next s
  | .rxAvail => .next s
  | .monFilter => .next s
  | .rxBuf _ => .next s

/-- What an access that reaches register `r` does (R66, last two lines): the agent sees the word or the write's end. -/
def accessReg (agent : Nat) (r : Reg) (acc : Access) (s : State) : Outcome :=
  match acc with
  | .read _ _ => .next (answer agent (.data (readReg r s).1) (readReg r s).2)
  | .write _ _ v => andThen (writeReg r v s) (answer agent .done)

/-- MemAccess (R66), followed by quiescence (R243): a refused access changes no state of the block, and the agent sees
BusError. -/
def performAccess (agent : Nat) (acc : Access) (s : State) : Outcome :=
  match offsetOf s.cfg acc.addr with
  | none => .fault (.outsideWindow acc.addr)
  | some off =>
    match target off acc.width with
    | none => .next (quiesce (answer agent .busError s))
    | some r => andThen (accessReg agent r acc s) quiesce

/-- The access is a write that reaches CMD: the bus checks come first (R66). -/
def isCmdWrite (c : Config) (acc : Access) : Bool :=
  acc.isWrite && ((offsetOf c acc.addr).bind fun off => target off acc.width) == some .cmd

/-- The access holds (R281): a CMD write while BUSY. Reads and other writes never hold. -/
def holds (acc : Access) (s : State) : Bool := busy s && isCmdWrite s.cfg acc

/-- The agent has an access that holds. -/
def isHeld (agent : Nat) (l : List HeldAccess) : Bool := l.any fun h => h.agent == agent

/-- The agent's oldest held access, and the others in their order. -/
def takeHeld (agent : Nat) : List HeldAccess → Option (HeldAccess × List HeldAccess)
  | [] => none
  | h :: rest =>
    if h.agent = agent then some (h, rest)
    else
      match takeHeld agent rest with
      | none => none
      | some (found, others) => some (found, h :: others)

/-- An agent issues an access. One that holds waits, and so does every later access of its agent (R71). The device's answer
announced for it waits with it (log entry 5). -/
def issueAccess (agent : Nat) (acc : Access) (s : State) : Outcome :=
  if isHeld agent s.held || holds acc s then
    .next { s with held := s.held ++ [⟨agent, acc, s.openAnswer⟩], openAnswer := none }
  else performAccess agent acc s

/-- The agent's oldest held access performs, when nothing holds it any more (R281), with the answer announced for it. -/
def resumeAccess (agent : Nat) (s : State) : Outcome :=
  match takeHeld agent s.held with
  | none => .fault (.notEnabled (.resume agent))
  | some (h, others) =>
    if holds h.acc s then .fault (.notEnabled (.resume agent))
    else performAccess agent h.acc { s with held := others, openAnswer := h.openAnswer }

end Sys2Proof.Machine
end

