-- ==== Sys2Proof/Machine/Events.lean ====
section
/-! DEFINITION. Dispatch of the external events (43_control.md R243), each followed by quiescence except Reset
(70_reset_and_hazards.md R300, R301), and the choice of the event that comes next. -/

namespace Sys2Proof.Machine

/-- When an event is enabled (R243): R163 for RxError, R164 for the write results, R281 for a resume. A host access is one
inside the window (20_memory.md R60). -/
def enabled (e : Event) (s : State) : Bool :=
  match e with
  | .host _ acc => (offsetOf s.cfg acc.addr).isSome
  | .resume agent =>
    match takeHeld agent s.held with
    | none => false
    | some (h, _) => (offsetOf s.cfg h.acc.addr).isSome && !holds h.acc s
  | .openAnswer _ => true
  | .rxByte _ => true
  | .rxError => readPending s || monRunning s
  | .writeOk => s.phase = .sWrite
  | .writeFail k => s.phase = .sWrite && k ≤ s.txShadow.length
  | .tick => true
  | .reset _ => true

/-- Every field of the spec's record at its reset value (10_state.md R55). The configuration and the ports stay (R301),
and so do the bus record and the environment: the agents and the device are not reset (DESIGN CHOICE, unsafe, log entry
6). An announced open result is dropped as by every event (log entry 5). -/
def clearBlock (s : State) : State :=
  { State.reset with
    wire := s.wire, reports := s.reports, trace := s.trace, devOps := s.devOps, bus := s.bus, cfg := s.cfg,
    inputs := s.inputs, held := s.held, draws := s.draws }

/-- `Reset` with the draw `k` (R300): in S_WRITE a prefix of the frame is on the line, and the device is closed if open.
`take` bounds the draw by the frame's length (log entry 12). -/
def resetBlock (k : Nat) (s : State) : State :=
  clearBlock (closeDevice (if s.phase = .sWrite then emitWire (s.txShadow.take k) s else s))

/-- The rules an event triggers (R243). An announced open result is for the event directly after it (30_encoding.md R99):
a host access takes it with it, and any other event drops it (DESIGN CHOICE, safe, log entry 5). -/
def perform (e : Event) (s : State) : Outcome :=
  let t := { s with openAnswer := none }
  match e with
  | .host agent acc => issueAccess agent acc s
  | .resume agent => resumeAccess agent s
  | .openAnswer ok => .next (quiesce { s with openAnswer := some ok })
  | .rxByte b => .next (quiesce (rxByte b t))
  | .rxError => .next (quiesce (rxErrorMonitor (rxErrorTransport t)))
  | .writeOk => .next (quiesce (writeOk t))
  | .writeFail k => .next (quiesce (writeFail k t))
  | .tick => .next (quiesce (tickMonitor (tickTransport t)))
  | .reset k => .next (resetBlock k s)

/-- Why an event that is not enabled stops the machine. -/
def whyNot (e : Event) : Fault :=
  match e with
  | .host _ acc => .outsideWindow acc.addr
  | .resume agent => .notEnabled (.resume agent)
  | .openAnswer ok => .notEnabled (.openAnswer ok)
  | .rxByte b => .notEnabled (.rxByte b)
  | .rxError => .notEnabled .rxError
  | .writeOk => .notEnabled .writeOk
  | .writeFail k => .notEnabled (.writeFail k)
  | .tick => .notEnabled .tick
  | .reset k => .notEnabled (.reset k)

/-- The event of this step, and the state without it. The listed events come in their order. When none is listed the
environment chooses freely among the enabled events (00_scope.md R7): a free value, in whose place Tick, which is always
enabled (41_transport.md R166), comes if it is not enabled. -/
def takeEvent (s : State) : Event × State :=
  match s.inputs with
  | e :: rest => (e, { s with inputs := rest })
  | [] =>
    let t := { s with draws := s.draws + 1 }
    (if enabled (Config.freeEvent s.draws) t then Config.freeEvent s.draws else .tick, t)

/-- One external event, if it is enabled (R7, R13). -/
def runEvent (e : Event) (s : State) : Outcome := if enabled e s then perform e s else .fault (whyNot e)

end Sys2Proof.Machine
end

