-- ==== Sys2Proof/WellFormed.lean ====
section
/-! DEFINITION. What is checked before the block runs: the constraints on the configuration (00_scope.md R9, R10,
60_exceptions.md R278). An operand's range is its type, and a range a command checks when it performs (R266) is the
command's own business, so every term of `Instr` is well formed. -/

namespace Sys2Proof

/-- The 3.5-character gap in microseconds, `ceil(3.5 * 10 * 1_000_000 / BAUD)` (R10). -/
def Config.minGapUs (c : Config) : Nat := (35000000 + (c.baud - 1)) / c.baud

/-- R9: every interval is at least one tick. -/
def Config.intervalsOk (c : Config) : Bool := 1 ≤ c.tIfd && 1 ≤ c.tRx && 1 ≤ c.tSettle

/-- R9: `T_GAP = T_IFD`. -/
def Config.gapOk (c : Config) : Bool := c.tGap == c.tIfd

/-- R9: `1 ≤ RX_FIFO_DEPTH ≤ 65535`. -/
def Config.fifoOk (c : Config) : Bool := 1 ≤ c.rxFifoDepth && c.rxFifoDepth ≤ 65535

/-- R9: `1 ≤ MON_BUF_MAX ≤ 65535`. -/
def Config.monBufOk (c : Config) : Bool := 1 ≤ c.monBufMax && c.monBufMax ≤ 65535

/-- R10: `T_IFD * TICK_US ≥ ceil(3.5 * 10 * 1_000_000 / BAUD)`. A baud rate of 0 meets no such bound (DEDUCED, log entry 3). -/
def Config.baudOk (c : Config) : Bool := 1 ≤ c.baud && c.minGapUs ≤ c.tIfd * c.tickUs

/-- The configuration is well formed; one that is not is refused (R10, R278). -/
def Config.wf (c : Config) : Bool := c.intervalsOk && c.gapOk && c.fifoOk && c.monBufOk && c.baudOk

/-- Every command is well formed: `A`, `N` and `B` admit every value of their field (30_encoding.md R92). -/
def Instr.wf : Instr → Bool
  | .nop => true
  | .openPort _ => true
  | .close => true
  | .clearFlags => true
  | .crcInit => true
  | .crcByte _ => true
  | .crcTx => true
  | .crcCheck => true
  | .send _ => true
  | .receive _ => true
  | .transfer _ _ => true
  | .monStart _ => true
  | .monStop => true

end Sys2Proof
end

