-- ==== Sys2Proof/Machine/Step.lean ====
section
/-! DEFINITION. One step: one external event as one atomic transition of the whole block (00_scope.md R7). -/

namespace Sys2Proof.Machine

/-- A configuration that is not well formed is refused (R10, 60_exceptions.md R278). -/
def step (s : State) : Host.Outcome State Fault Refusal :=
  if s.cfg.wf then runEvent (takeEvent s).1 (takeEvent s).2 else .refused .illFormedConfig

/-- An agent number above every agent whose access holds; 0 when none does. -/
def freshAgent (s : State) : Nat := s.held.foldr (fun h n => max (h.agent + 1) n) 0

/-- The next external event is a CMD write of the opcode-table word, by an agent with nothing held (log entry 10). The
block fetches no instructions (10_state.md R22): a host's CMD write is how a command comes to run. -/
def State.withFetchWord (s : State) (nbits w : Nat) : State :=
  { s with inputs := .host (freshAgent s) (.write 4 s.cfg.base (tableWord nbits w)) :: s.inputs }

end Sys2Proof.Machine
end

