-- ==== Sys2Proof/Safety.lean ====
section
/-! DEFINITION. What claims about the block are stated in: the invariants of 10_state.md R44 and the bounds of R20, the
operating modes (60_exceptions.md R280), the acceptance checks in their one order (R262), and the measure by which every
transport command ends (41_transport.md R202). -/

namespace Sys2Proof.Machine

/-- The invariants of R44 in their order, then the bounds and the resting values that other rules give, each with its rule
(those beyond R44 are DEDUCED, safe, log entry 16). -/
structure Inv (s : State) : Prop where
  /-- R9, R10. -/
  config : s.cfg.wf = true
  /-- R44(a). -/
  monitorExclusive : s.monState = .running → s.phase = .idle ∧ s.conn = .opened
  /-- R44(b). -/
  busyIsOpen : s.phase ≠ .idle → s.conn = .opened
  /-- R44(c). -/
  fixedReceive : s.phase = .rFixed → s.rxLen < s.rxExpect ∧ s.rxExpect.toNat ≤ 256 ∧ s.rxFifo = []
  /-- R44(d), with `rx_expect = 0` for a free-form drain (R29). -/
  settleReceive : s.phase = .rSettle → s.rxLen = 0 ∧ s.rxExpect = 0
  /-- R44(e). -/
  monitorTakesAll : s.monState = .running → s.rxFifo = []
  /-- R44(f), S_IFD. -/
  ifdTimer : s.phase = .sIfd → s.tmr < s.cfg.tIfd
  /-- R44(f), R_FIXED. -/
  fixedTimer : s.phase = .rFixed → s.tmr < s.cfg.tRx
  /-- R44(f), R_SETTLE. -/
  settleTimer : s.phase = .rSettle → s.tmr < s.cfg.tSettle
  /-- R44(f), the monitor. -/
  monitorTimer : s.mtmr < s.cfg.tGap
  /-- R32: at most 256 + 2 bytes. -/
  shadowBound : s.txShadow.length ≤ 258
  /-- R20, R33. -/
  fifoBound : s.rxFifo.length ≤ s.cfg.rxFifoDepth
  /-- R20, R40. -/
  monBufBound : s.monBuf.length ≤ s.cfg.monBufMax
  /-- R20, R38. -/
  filterBound : s.monFilter.toNat ≤ 63
  /-- 40_crc.md R143: `rx_len > 256` cannot occur. -/
  rxLenBound : s.rxLen.toNat ≤ 256
  /-- 60_exceptions.md R266: the expected length of an accepted TRANSFER. -/
  expectedBound : s.curExpected.toNat ≤ 256
  /-- The buffers keep their canonical form. -/
  txbufWf : s.txbuf.wf = true
  rxbufWf : s.rxbuf.wf = true
  /-- R28: a receive fills entries `0 .. rx_len-1`. -/
  received : ∀ i, i < s.rxLen.toNat → (s.rxbuf.read i).isSome = true
  /-- 60_exceptions.md R271: while BUSY is 1, `err` reads NONE. -/
  busyNoError : s.phase ≠ .idle → s.err = .none
  /-- 41_transport.md R186: what `complete` leaves. -/
  idleContext : s.phase = .idle → s.tmr = 0 ∧ s.curTransfer = false ∧ s.curExpected = 0 ∧ s.txShadow = []
  /-- 41_transport.md R162, R172: a closed block has no received bytes. -/
  closedEmpty : s.conn = .closed → s.rxFifo = []
  /-- 42_monitor.md R214: what `stop_run` leaves. -/
  monitorAtRest : s.monState ≠ .running →
    s.monBuf = [] ∧ s.monOvfPend = false ∧ s.monStopReq = false ∧ s.mtmr = 0
  /-- R41: the pending overflow bit marks a full buffer. -/
  overflowFull : s.monOvfPend = true → s.monBuf.length = s.cfg.monBufMax
  /-- 20_memory.md R60: an access that holds is one of the window. -/
  heldInWindow : ∀ h ∈ s.held, (offsetOf s.cfg h.acc.addr).isSome = true

/-- The operating modes of R280. -/
inductive Mode where
  | closed | ready | transaction | monitoring
  deriving DecidableEq, Repr

/-- The mode of a state (R280). Their conditions exclude each other where R44(a) and R44(b) hold. -/
def modeOf (s : State) : Mode :=
  if busy s then .transaction
  else if monRunning s then .monitoring
  else if isOpen s then .ready
  else .closed

/-- SEND, RECEIVE, TRANSFER and MON_START need an open connection (R263). -/
def needsOpen : Instr → Bool
  | .send _ | .receive _ | .transfer _ _ | .monStart _ => true
  | .nop | .openPort _ | .close | .clearFlags | .crcInit | .crcByte _ | .crcTx | .crcCheck | .monStop => false

/-- SEND, RECEIVE, TRANSFER and CLOSE conflict with a running monitor (R264). -/
def conflictsWithMonitor : Instr → Bool
  | .send _ | .receive _ | .transfer _ _ | .close => true
  | .nop | .openPort _ | .clearFlags | .crcInit | .crcByte _ | .crcTx | .crcCheck | .monStart _ | .monStop => false

/-- The command enters a state its unit is already in (R267). -/
def alreadyThere (i : Instr) (s : State) : Bool :=
  match i with
  | .openPort _ => isOpen s
  | .monStart _ => monRunning s
  | .nop | .close | .clearFlags | .crcInit | .crcByte _ | .crcTx | .crcCheck | .send _ | .receive _ | .transfer _ _
  | .monStop => false

/-- The argument checks (R266). -/
def badArgument (i : Instr) (s : State) : Bool :=
  match i with
  | .crcTx => 256 < s.txLen.toNat
  | .send _ => 256 < s.txLen.toNat
  | .receive n => 256 < n.toNat
  | .transfer _ n => 256 < s.txLen.toNat || 256 < n.toNat
  | .monStart f => 63 < f.toNat
  | .nop | .openPort _ | .close | .clearFlags | .crcInit | .crcByte _ | .crcCheck | .monStop => false

/-- `accept(w)`: the code of the first failing check, in R262's one order for every command. -/
def acceptanceError (d : Decoded) (s : State) : Option ErrCode :=
  match d with
  | .illegal _ => some .illegalCommand
  | .cmd i =>
    if needsOpen i && s.conn = .closed then some .notOpen
    else if conflictsWithMonitor i && s.monState = .running then some .modeConflict
    else if alreadyThere i s then some .badState
    else if badArgument i s then some .invalidArgument
    else none

/-- The limit of a receive of expected length `n` (R192, R194). -/
def receiveLimit (c : Config) (n : Half) : Nat := if n = 0 then c.tSettle else c.tRx

/-- The ticks after which a transport command that waits for ticks has ended, if nothing ends it earlier (R202). -/
def ticksLeft (s : State) : Nat :=
  match s.phase with
  | .idle => 0
  | .sWrite => 0
  | .sIfd => (s.cfg.tIfd - s.tmr) + (if s.curTransfer then receiveLimit s.cfg s.curExpected else 0)
  | .rFixed => s.cfg.tRx - s.tmr
  | .rSettle => s.cfg.tSettle - s.tmr

/-- The first `k` entries of a buffer are written and are `bs`. -/
def Entries (m : Memory) (k : Nat) (bs : List Byte) : Prop := bs.length = k ∧ ∀ i, i < k → m.read i = bs[i]?

/-- `bs` is what using the first `k` entries of a buffer may yield: a written entry yields its byte, and an UNWRITTEN one
any byte (10_state.md R26, R28). -/
def UseOf (m : Memory) (k : Nat) (bs : List Byte) : Prop :=
  bs.length = k ∧ ∀ i b, i < k → m.read i = some b → bs[i]? = some b

/-- Every entry outside `[a, a + k)` reads as before. -/
def SameOutside (a k : Nat) (m m' : Memory) : Prop := ∀ x, x < a ∨ a + k ≤ x → m'.read x = m.read x

/-- The trace a receive of the bytes `bs` adds when it ends (43_control.md R246). -/
def receiveTrace (c : Config) (bs : List Byte) : List TraceEvent := if c.verbose ∧ bs ≠ [] then [.rx bs] else []

/-- What a read of register `r` answers, and the number of draws made after it (10_state.md R45 to R54): an UNWRITTEN entry
reads as some byte, by a draw. -/
def ReadAnswers (r : Reg) (s : State) (v : Word) (d : Nat) : Prop :=
  match r with
  | .cmd => v = 0 ∧ d = s.draws
  | .status => v = statusWord s ∧ d = s.draws
  | .crcAcc => v.toNat = 256 * s.accHi.toNat + s.accLo.toNat ∧ d = s.draws
  | .txLen => v.toNat = s.txLen.toNat ∧ d = s.draws
  | .rxLen => v.toNat = s.rxLen.toNat ∧ d = s.draws
  | .rxExpect => v.toNat = s.rxExpect.toNat ∧ d = s.draws
  | .rxAvail => v.toNat = s.rxFifo.length ∧ d = s.draws
  | .monFilter => v.toNat = s.monFilter.toNat ∧ d = s.draws
  | .txBuf i => v.toNat < 256 ∧ ∀ b, s.txbuf.read i.val = some b → v.toNat = b.toNat ∧ d = s.draws
  | .rxBuf i => v.toNat < 256 ∧ ∀ b, s.rxbuf.read i.val = some b → v.toNat = b.toNat ∧ d = s.draws

/-- What a write of `v` to register `r` makes of `txbuf` (10_state.md R53): one entry of a TXBUF word, none otherwise. -/
def TxbufAfterWrite (r : Reg) (v : Word) (m m' : Memory) : Prop :=
  ∀ a, m'.read a = if ∃ i : Fin 256, r = .txBuf i ∧ a = i.val then some (v.extractLsb' 0 8) else m.read a

/-- An event that may make a command perform: a host access, issued or resumed. -/
def isHostEvent : Event → Bool
  | .host _ _ | .resume _ => true
  | .openAnswer _ | .rxByte _ | .rxError | .writeOk | .writeFail _ | .tick | .reset _ => false

/-- The event is Reset. -/
def isReset : Event → Bool
  | .reset _ => true
  | .host _ _ | .resume _ | .openAnswer _ | .rxByte _ | .rxError | .writeOk | .writeFail _ | .tick => false

/-- The access that performs in an event: one an agent issues or resumes and that nothing makes wait (20_memory.md R71,
60_exceptions.md R281). -/
def performingAccess (e : Event) (s : State) : Option Access :=
  match e with
  | .host agent acc => if isHeld agent s.held || holds acc s then none else some acc
  | .resume agent =>
    match takeHeld agent s.held with
    | none => none
    | some (h, _) => if holds h.acc s then none else some h.acc
  | .openAnswer _ | .rxByte _ | .rxError | .writeOk | .writeFail _ | .tick | .reset _ => none

/-- The command of an access: that of a CMD write (43_control.md R242). A reserved opcode is none. -/
def accessCommand (c : Config) (acc : Access) : Option Instr :=
  match acc with
  | .read _ _ => none
  | .write width addr v => if isCmdWrite c (.write width addr v) then (decode v).instr? else none

/-- The command an event runs: that of the access that performs in it. -/
def commandOf (e : Event) (s : State) : Option Instr := (performingAccess e s).bind (accessCommand s.cfg)

/-- The command of a step. -/
def stepCommand (s : State) : Option Instr := commandOf (takeEvent s).1 (takeEvent s).2

end Sys2Proof.Machine
end

