-- ==== Sys2Proof/Certificates/Slice0/Obligations.lean ====
section
/-! DEFINITION. The statements about the block. Each formalises the numbered rule its docstring names. An event is the next
one of a state when it heads the listed inputs, and every statement holds for every list of inputs after it. In the records
`inputs := rest, openAnswer := none` is the environment moving past the event (log entries 1, 5). -/

open Sys2Proof Sys2Proof.Machine

/-! ### Encoding -/

/-- R94, R97, R98: words written out from the opcode map and the syntax table decode to the commands they stand for. -/
def Obligations.SpelledWordsDecode : Prop :=
  decode 0x00FFFFFF = .cmd .nop ∧ decode 0x010000A7 = .cmd (.openPort 0xA7) ∧ decode 0x02000000 = .cmd .close ∧
  decode 0x03000000 = .cmd .clearFlags ∧ decode 0x10000000 = .cmd .crcInit ∧ decode 0x11FFFF12 = .cmd (.crcByte 0x12) ∧
  decode 0x12000000 = .cmd .crcTx ∧ decode 0x13000000 = .cmd .crcCheck ∧ decode 0x20010000 = .cmd (.send true) ∧
  decode 0x2000FFFF = .cmd (.send false) ∧ decode 0x2101FEDC = .cmd (.receive 0xFEDC) ∧
  decode 0x22010008 = .cmd (.transfer true 8) ∧ decode 0x22000101 = .cmd (.transfer false 0x101) ∧
  decode 0x30000005 = .cmd (.monStart 5) ∧ decode 0x31000000 = .cmd .monStop ∧ decode 0x04000000 = .illegal 0x04

/-- R97, R98: decoding the word of a command gives the command back, for every value of every operand. -/
def Obligations.DecodeOfEncode : Prop := ∀ i : Instr, decode (encode i) = .cmd i

/-- R91, R93: a word is a command's exactly if the bits its format uses are those of the command's own word; every other bit
is ignored, for every value. -/
def Obligations.DecodeReadsUsedBitsOnly : Prop :=
  ∀ (w : Word) (i : Instr), decode w = .cmd i ↔ w &&& i.usedBits = encode i

/-- R95: the words that decode to no command are those whose `OP` is in the reserved ranges, and the answer names it. -/
def Obligations.ReservedOpcodesAreIllegal : Prop :=
  ∀ (w : Word) (op : Byte), decode w = .illegal op ↔
    op = w.extractLsb' 24 8 ∧
      ((0x04 ≤ op.toNat ∧ op.toNat ≤ 0x0F) ∨ (0x14 ≤ op.toNat ∧ op.toNat ≤ 0x1F) ∨
        (0x23 ≤ op.toNat ∧ op.toNat ≤ 0x2F) ∨ 0x32 ≤ op.toNat)

/-! ### Configuration and reset -/

/-- R9, R10: the configurations that are well formed, the bound of R10 as `T_IFD * TICK_US * BAUD ≥ 35_000_000`, and that
one that is not is refused. That a baud rate of 0 is refused is the model's reading (log entry 3). -/
def Obligations.OnlyWellFormedConfigurationsRun : Prop :=
  (∀ c : Config, c.wf = true ↔
    1 ≤ c.tIfd ∧ 1 ≤ c.tRx ∧ 1 ≤ c.tSettle ∧ c.tGap = c.tIfd ∧ (1 ≤ c.rxFifoDepth ∧ c.rxFifoDepth ≤ 65535) ∧
      (1 ≤ c.monBufMax ∧ c.monBufMax ≤ 65535) ∧ 1 ≤ c.baud ∧ 35000000 ≤ c.tIfd * c.tickUs * c.baud) ∧
  (∀ s : State, s.cfg.wf = false → step s = .refused .illFormedConfig)

/-- R302: what the host reads after Reset, and that every buffer entry is UNWRITTEN. -/
def Obligations.ResetRegistersRead : Prop :=
  statusWord State.reset = 0x00000000 ∧ crcAccWord State.reset = 0x0000FFFF ∧ modeOf State.reset = .closed ∧
  (∀ a, State.reset.txbuf.read a = none) ∧ (∀ a, State.reset.rxbuf.read a = none)

/-- R55, R300, R301: Reset sets every field of the block to its reset value, puts a prefix of a frame being written on the
line, closes the device, and keeps the configuration and the other ports. The draw `k` is the environment's. -/
def Obligations.ResetSetsEveryField : Prop :=
  ∀ (s : State) (k : Nat) (rest : List Event), s.cfg.wf = true → s.inputs = .reset k :: rest →
    step s = .next
      { conn := .closed, accHi := 0xFF, accLo := 0xFF, txbuf := [], txLen := 0, rxbuf := [], rxLen := 0, rxExpect := 0,
        phase := .idle, tmr := 0, curTransfer := false, curExpected := 0, txShadow := [], rxFifo := [], err := .none,
        rxOvr := false, monOvf := false, monErr := false, monState := .midle, monFilter := 0, monStopReq := false,
        monBuf := [], monOvfPend := false, mtmr := 0,
        wire := if s.phase = .sWrite then s.wire ++ s.txShadow.take k else s.wire,
        reports := s.reports, trace := s.trace,
        devOps := if s.conn = .opened then s.devOps ++ [.close] else s.devOps,
        bus := s.bus, cfg := s.cfg, inputs := rest, held := s.held, openAnswer := none, draws := s.draws }

/-! ### The CRC unit -/

/-- R130: the CRC values the source gives. -/
def Obligations.CrcOfSourceExamples : Prop :=
  crc [] = (0xFF, 0xFF) ∧ crc [0x00] = (0xBF, 0x40) ∧ crc [0x12, 0x34, 0x56, 0x67] = (0x3A, 0xD8) ∧
  crc [0x12, 0x34, 0x56, 0x67, 0x3A, 0xD8] = (0x00, 0x00) ∧
  withCrc [0x01, 0x06, 0x00, 0x01, 0x01, 0x00] = [0x01, 0x06, 0x00, 0x01, 0x01, 0x00, 0xD9, 0x9A]

/-- R133, R134: every entry of the two tables is a byte of the eight-fold shift with the polynomial 0xA001, and the table
step and the bitwise step agree on every accumulator and every byte. -/
def Obligations.TableStepIsBitwiseStep : Prop :=
  (∀ i : Byte, tableHi i = (t16 i).extractLsb' 0 8 ∧ tableLow i = (t16 i).extractLsb' 8 8) ∧
  ∀ (acc : Byte × Byte) (b : Byte), crcStep acc b = crcStepBitwise acc b

/-- R135: appending the correct CRC gives the zero residual. That only the correct CRC does is the passage of R135 that the
spec marks as its own general knowledge (93_implementation_defined.md G7). -/
def Obligations.CrcResidualIsZeroOnlyForTheCrc : Prop :=
  ∀ (m : List Byte) (x y : Byte), crc (m ++ [x, y]) = (0x00, 0x00) ↔ (x, y) = crc m

/-- R141: CRC_INIT and then CRC_BYTE for each byte of a sequence leave its CRC in the accumulator, and `err` NONE. -/
def Obligations.CrcBytesAccumulate : Prop :=
  ∀ (bs : List Byte) (s : State),
    bs.foldl (fun o b => match o with
        | .next t => exec (.crcByte b) t
        | .fault r => .fault r
        | .refused r => .refused r) (exec .crcInit s) =
      .next { s with accHi := (crc bs).1, accLo := (crc bs).2, err := .none }

/-- R140: CRC_INIT, OP 0x10, seeds the accumulator and changes nothing else but `err`. -/
def Obligations.CrcInitSeeds : Prop :=
  (∀ w : Word, w.extractLsb' 24 8 = 0x10 → decode w = .cmd .crcInit) ∧
  ∀ s : State, exec .crcInit s = .next { s with accHi := 0xFF, accLo := 0xFF, err := .none }

/-- R130, R141: CRC_BYTE, OP 0x11, advances the accumulator by one table lookup and changes nothing else but `err`. -/
def Obligations.CrcByteAdvances : Prop :=
  (∀ w : Word, w.extractLsb' 24 8 = 0x11 → decode w = .cmd (.crcByte (w.extractLsb' 0 8))) ∧
  ∀ (b : Byte) (s : State),
    exec (.crcByte b) s = .next
      { s with
        accHi := s.accLo ^^^ tableHiEntries.getD (s.accHi ^^^ b).toNat 0,
        accLo := tableLowEntries.getD (s.accHi ^^^ b).toNat 0,
        err := .none }

/-- R142: CRC_TX, OP 0x12, sets the accumulator to the CRC of a use of `txbuf[0 .. tx_len)`, or rejects `tx_len > 256`; nothing else
changes, but for the draws of UNWRITTEN entries. -/
def Obligations.CrcTxComputes : Prop :=
  (∀ w : Word, w.extractLsb' 24 8 = 0x12 → decode w = .cmd .crcTx) ∧
  ∀ s : State,
    (256 < s.txLen.toNat → exec .crcTx s = .next { s with err := .invalidArgument }) ∧
    (s.txLen.toNat ≤ 256 → ∃ payload d, UseOf s.txbuf s.txLen.toNat payload ∧
      exec .crcTx s = .next { s with accHi := (crc payload).1, accLo := (crc payload).2, err := .none, draws := d })

/-- R143: CRC_CHECK, OP 0x13, compares the last two received bytes with the CRC of those before them; fewer than two bytes always
mismatch. Nothing else changes, but for the draws of UNWRITTEN entries. -/
def Obligations.CrcCheckCompares : Prop :=
  (∀ w : Word, w.extractLsb' 24 8 = 0x13 → decode w = .cmd .crcCheck) ∧
  ∀ s : State,
    (s.rxLen.toNat < 2 → exec .crcCheck s = .next { s with accHi := 0xFF, accLo := 0xFF, err := .crcMismatch }) ∧
    (2 ≤ s.rxLen.toNat → ∃ frame x y d, UseOf s.rxbuf s.rxLen.toNat (frame ++ [x, y]) ∧
      exec .crcCheck s = .next
        { s with
          accHi := (crc frame).1, accLo := (crc frame).2,
          err := if crc frame = (x, y) then .none else .crcMismatch, draws := d })

/-! ### Control and connection commands -/

/-- R240, R241: NOP, OP 0x00, changes no state; CLEAR_FLAGS, OP 0x03, clears the sticky flags and `err` and changes nothing
else. -/
def Obligations.NopAndClearFlags : Prop :=
  (∀ w : Word, w.extractLsb' 24 8 = 0x00 → decode w = .cmd .nop) ∧
  (∀ w : Word, w.extractLsb' 24 8 = 0x03 → decode w = .cmd .clearFlags) ∧
  ∀ s : State, exec .nop s = .next s ∧
    exec .clearFlags s = .next { s with rxOvr := false, monOvf := false, monErr := false, err := .none }

/-- R170: OPEN on an open connection is BAD_STATE; otherwise the device's answer decides, whichever it is. An answer announced
by R99 is there for the OPEN of the event directly after it only. The record of device operations and the form of the
announcement are the model's own (log entries 5, 9). -/
def Obligations.OpenFollowsTheDevice : Prop :=
  (∀ (p : Byte) (s : State),
    (s.conn = .opened → exec (.openPort p) s = .next { s with err := .badState }) ∧
    (s.conn = .closed → ∃ ok d, (∀ a, s.openAnswer = some a → ok = a ∧ d = s.draws) ∧
      exec (.openPort p) s = .next
        { s with
          conn := if ok then .opened else .closed,
          rxFifo := if ok then [] else s.rxFifo,
          err := if ok then .none else .connectionError,
          devOps := s.devOps ++ [.openPort p s.cfg.baud], openAnswer := none, draws := d })) ∧
  ∀ s t : State, step s = .next t →
    t.openAnswer = none ∨ ∃ ok, (takeEvent s).1 = .openAnswer ok ∧ t.openAnswer = some ok

/-- R172: CLOSE is refused while the monitor runs; otherwise it closes and empties `rx_fifo`, and everything else is kept. -/
def Obligations.CloseCloses : Prop :=
  ∀ s : State,
    (s.monState = .running → exec .close s = .next { s with err := .modeConflict }) ∧
    (s.monState ≠ .running →
      exec .close s = .next
        { s with
          conn := .closed, rxFifo := [], err := .none,
          devOps := if s.conn = .opened then s.devOps ++ [.close] else s.devOps })

/-! ### Transport commands -/

/-- R174, R178: an accepted SEND or TRANSFER snapshots the payload, appends its CRC if asked, drains `rx_fifo` and hands the
frame to the device, with the transaction context of its command; everything else is kept. The record of device operations
is the model's own (log entry 9). -/
def Obligations.SendAndTransferHandOverTheFrame : Prop :=
  ∀ (a : Bool) (n : Half) (s : State), s.conn = .opened → s.monState ≠ .running → s.txLen.toNat ≤ 256 → n.toNat ≤ 256 →
    ∃ payload frame d, UseOf s.txbuf s.txLen.toNat payload ∧
      frame = (if a then payload ++ [(crc payload).1, (crc payload).2] else payload) ∧
      exec (.send a) s = .next
        { s with
          accHi := if a then (crc payload).1 else s.accHi, accLo := if a then (crc payload).2 else s.accLo,
          rxFifo := [], txShadow := frame, curTransfer := false, curExpected := 0, err := .none, phase := .sWrite,
          trace := if s.cfg.verbose then s.trace ++ [.tx frame] else s.trace,
          devOps := s.devOps ++ [.drain, .write frame], draws := d } ∧
      exec (.transfer a n) s = .next
        { s with
          accHi := if a then (crc payload).1 else s.accHi, accLo := if a then (crc payload).2 else s.accLo,
          rxFifo := [], txShadow := frame, curTransfer := true, curExpected := n, err := .none, phase := .sWrite,
          trace := if s.cfg.verbose then s.trace ++ [.tx frame] else s.trace,
          devOps := s.devOps ++ [.drain, .write frame], draws := d }

/-- R176, R188, R190: RECEIVE, OP 0x21, is rejected when closed, while the monitor runs, and with a length above 256, checked
in this order; accepted, it begins a receive of its length and does not drain `rx_fifo` or clear `rxbuf`. The quiescence that
follows receives the bytes already buffered first; a free-form drain leaves them until its delay ends (R194). -/
def Obligations.ReceiveBegins : Prop :=
  (∀ w : Word, w.extractLsb' 24 8 = 0x21 → decode w = .cmd (.receive (w.extractLsb' 0 16))) ∧
  ∀ (n : Half) (s : State),
    (s.conn = .closed → exec (.receive n) s = .next { s with err := .notOpen }) ∧
    (s.conn = .opened → s.monState = .running → exec (.receive n) s = .next { s with err := .modeConflict }) ∧
    (s.conn = .opened → s.monState ≠ .running → 256 < n.toNat →
      exec (.receive n) s = .next { s with err := .invalidArgument }) ∧
    (s.conn = .opened → s.monState ≠ .running → n.toNat ≤ 256 →
      let t : State :=
        { s with
          curTransfer := false, curExpected := 0, err := .none, rxLen := 0, rxExpect := n, tmr := 0,
          phase := if n = 0 then .rSettle else .rFixed }
      exec (.receive n) s = .next t ∧
      (n = 0 → quiesce t = t) ∧
      (n ≠ 0 → ∃ m : Memory,
        (∀ i, i < min s.rxFifo.length n.toNat → m.read i = s.rxFifo[i]?) ∧
        SameOutside 0 (min s.rxFifo.length n.toNat) s.rxbuf m ∧
        (s.rxFifo.length < n.toNat →
          quiesce t = { t with rxbuf := m, rxLen := BitVec.ofNat 16 s.rxFifo.length, rxFifo := [] }) ∧
        (n.toNat ≤ s.rxFifo.length →
          quiesce t =
            { t with
              rxbuf := m, rxLen := n, rxFifo := s.rxFifo.drop n.toNat, phase := .idle, txShadow := [],
              trace := s.trace ++ receiveTrace s.cfg (s.rxFifo.take n.toNat) })))

/-! ### Monitor commands -/

/-- R210: MON_START, OP 0x30, is rejected when closed, while a run goes on, and with a filter above 63, checked in this
order; accepted, it begins a run and does not drain `rx_fifo`. The quiescence that follows in the idle block reads the bytes
already buffered as the first bytes of the run. -/
def Obligations.MonStartBeginsARun : Prop :=
  (∀ w : Word, w.extractLsb' 24 8 = 0x30 → decode w = .cmd (.monStart (w.extractLsb' 0 8))) ∧
  ∀ (f : Byte) (s : State),
    (s.conn = .closed → exec (.monStart f) s = .next { s with err := .notOpen }) ∧
    (s.conn = .opened → s.monState = .running → exec (.monStart f) s = .next { s with err := .badState }) ∧
    (s.conn = .opened → s.monState ≠ .running → 63 < f.toNat →
      exec (.monStart f) s = .next { s with err := .invalidArgument }) ∧
    (s.conn = .opened → s.monState ≠ .running → f.toNat ≤ 63 →
      let t : State :=
        { s with
          monState := .running, monFilter := f, monStopReq := false, monBuf := [], monOvfPend := false, monErr := false,
          mtmr := 0, err := .none }
      exec (.monStart f) s = .next t ∧
      (s.phase = .idle →
        quiesce t =
          { t with
            monBuf := s.rxFifo.take s.cfg.monBufMax, monOvfPend := decide (s.cfg.monBufMax < s.rxFifo.length),
            rxFifo := [] }))

/-- R212: MON_STOP, OP 0x31, only requests, and only of a running monitor. -/
def Obligations.MonStopRequests : Prop :=
  (∀ w : Word, w.extractLsb' 24 8 = 0x31 → decode w = .cmd .monStop) ∧
  ∀ s : State,
    (s.monState = .running → exec .monStop s = .next { s with monStopReq := true, err := .none }) ∧
    (s.monState ≠ .running → exec .monStop s = .next { s with err := .none })

/-! ### Acceptance, dispatch, frames -/

/-- R262, R272: the first failing check in the one order decides the error, and a rejected command changes nothing but
`err`. -/
def Obligations.FirstFailingCheckRejects : Prop :=
  ∀ (w : Word) (s : State) (e : ErrCode), acceptanceError (decode w) s = some e →
    issueCommand w s = .next { s with err := e }

/-- R242, R278: a CMD write of any word that performs ends in a next state: no command stops the machine. -/
def Obligations.EveryCommandCompletes : Prop :=
  (∀ (i : Instr) (s : State), ∃ t, exec i s = .next t) ∧ ∀ (w : Word) (s : State), ∃ t, issueCommand w s = .next t

/-- R27, R28, R43: no command itself writes a buffer entry, `tx_len`, the line, the reports, or the configuration. -/
def Obligations.CommandsLeaveBuffersAlone : Prop :=
  ∀ (i : Instr) (s t : State), exec i s = .next t →
    (∀ a, t.txbuf.read a = s.txbuf.read a) ∧ (∀ a, t.rxbuf.read a = s.rxbuf.read a) ∧ t.txLen = s.txLen ∧
      t.wire = s.wire ∧ t.reports = s.reports ∧ t.cfg = s.cfg ∧ t.bus = s.bus ∧ t.held = s.held ∧ t.inputs = s.inputs

/-- R35: among the commands only CLEAR_FLAGS clears a sticky flag, but for MON_START and `mon_err`; and no step clears one,
whatever its event and the quiescence after it, but one that runs these commands or is Reset. -/
def Obligations.StickyFlagsStay : Prop :=
  (∀ (i : Instr) (s t : State), exec i s = .next t → i ≠ .clearFlags →
    (s.rxOvr = true → t.rxOvr = true) ∧ (s.monOvf = true → t.monOvf = true) ∧
      (s.monErr = true → t.monErr = true ∨ ∃ f, i = .monStart f)) ∧
  (∀ s t : State, step s = .next t → isReset (takeEvent s).1 = false → stepCommand s ≠ some .clearFlags →
    (s.rxOvr = true → t.rxOvr = true) ∧ (s.monOvf = true → t.monOvf = true) ∧
      (s.monErr = true → t.monErr = true ∨ ∃ f, stepCommand s = some (.monStart f)))

/-- R23: among the commands only OPEN opens the connection and only CLOSE closes it; and in every step, whatever its event and
the quiescence after it, only these do, and Reset, which closes it. -/
def Obligations.OnlyOpenOpensTheConnection : Prop :=
  (∀ (i : Instr) (s t : State), exec i s = .next t →
    (s.conn = .closed → t.conn = .opened → ∃ p, i = .openPort p) ∧
    (s.conn = .opened → t.conn = .closed → i = .close)) ∧
  (∀ s t : State, step s = .next t →
    (s.conn = .closed → t.conn = .opened → ∃ p, stepCommand s = some (.openPort p)) ∧
    (s.conn = .opened → t.conn = .closed → stepCommand s = some .close ∨ isReset (takeEvent s).1 = true) ∧
    (isReset (takeEvent s).1 = true → t.conn = .closed))

/-- R242: a CMD write that performs runs the command its word decodes to, then the agent has its answer and quiescence
runs. The second part says it of a word placed by `withFetchWord`, which is how a command comes to run from a given state
(log entry 10). -/
def Obligations.StepRunsTheDecodedCommand : Prop :=
  (∀ (s : State) (agent : Nat) (w : Word) (i : Instr) (rest : List Event),
    s.cfg.wf = true → s.phase = .idle → isHeld agent s.held = false →
    s.inputs = .host agent (.write 4 s.cfg.base w) :: rest → decode w = .cmd i →
    step s = andThen (exec i { s with inputs := rest }) (fun t => quiesce (answer agent .done t))) ∧
  (∀ (s : State) (nbits w : Nat) (i : Instr), s.cfg.wf = true → s.phase = .idle → decodeTableWord nbits w = some i →
    step (s.withFetchWord nbits w) = andThen (exec i s) (fun t => quiesce (answer (freshAgent s) .done t)))

/-- R95, R265: a CMD write of a reserved opcode is rejected with ILLEGAL_COMMAND and has no other effect. -/
def Obligations.ReservedOpcodeIsRejected : Prop :=
  ∀ (s : State) (agent : Nat) (w : Word) (op : Byte) (rest : List Event),
    Inv s → s.phase = .idle → isHeld agent s.held = false →
    s.inputs = .host agent (.write 4 s.cfg.base w) :: rest → decode w = .illegal op →
    step s = .next
      { s with inputs := rest, openAnswer := none, err := .illegalCommand, bus := s.bus ++ [⟨agent, .done⟩] }

/-! ### The host bus -/

/-- R61 to R64: the register map, and every access that is refused. -/
def Obligations.RegisterMapIsTheTable : Prop :=
  target 0x000 4 = some .cmd ∧ target 0x004 4 = some .status ∧ target 0x008 4 = some .crcAcc ∧
  target 0x00C 4 = some .txLen ∧ target 0x010 4 = some .rxLen ∧ target 0x014 4 = some .rxExpect ∧
  target 0x018 4 = some .rxAvail ∧ target 0x01C 4 = some .monFilter ∧
  (∀ i : Fin 256, target (0x400 + 4 * i.val) 4 = some (.txBuf i)) ∧
  (∀ i : Fin 256, target (0x800 + 4 * i.val) 4 = some (.rxBuf i)) ∧
  (∀ off, 0x020 ≤ off → off ≤ 0x3FF → target off 4 = none) ∧
  (∀ off, 0xC00 ≤ off → off ≤ 0xFFF → target off 4 = none) ∧
  (∀ off width, width ≠ 4 → target off width = none) ∧
  (∀ off width, off % 4 ≠ 0 → target off width = none)

/-- R66: a refused access changes no state of the block; its agent sees BusError. -/
def Obligations.BusErrorChangesNoState : Prop :=
  ∀ (s : State) (agent : Nat) (acc : Access) (off : Nat) (rest : List Event),
    Inv s → isHeld agent s.held = false → s.inputs = .host agent acc :: rest →
    offsetOf s.cfg acc.addr = some off → target off acc.width = none →
    step s = .next { s with inputs := rest, openAnswer := none, bus := s.bus ++ [⟨agent, .busError⟩] }

/-- R45, R260: each field of STATUS, and the numbers of the error codes it reads. -/
def Obligations.StatusFieldsRead : Prop :=
  (∀ s : State,
    ((statusWord s).getLsbD 0 = decide (s.phase ≠ .idle)) ∧ ((statusWord s).getLsbD 1 = decide (s.conn = .opened)) ∧
    (statusWord s).extractLsb' 2 2 =
      (match s.monState with | .midle => 0 | .running => 1 | .stopped => 2) ∧
    (statusWord s).getLsbD 4 = s.monStopReq ∧ (statusWord s).getLsbD 5 = s.monErr ∧
    (statusWord s).getLsbD 6 = s.rxOvr ∧ (statusWord s).getLsbD 7 = s.monOvf ∧
    (statusWord s).extractLsb' 8 8 = s.err.code ∧
    (statusWord s).extractLsb' 16 4 =
      (match s.phase with | .idle => 0 | .sWrite => 1 | .sIfd => 2 | .rFixed => 3 | .rSettle => 4) ∧
    (statusWord s).extractLsb' 20 12 = 0) ∧
  ErrCode.none.code = 0x00 ∧ ErrCode.connectionError.code = 0x01 ∧ ErrCode.writeError.code = 0x02 ∧
  ErrCode.receiveTimeout.code = 0x03 ∧ ErrCode.lengthMismatch.code = 0x04 ∧ ErrCode.crcMismatch.code = 0x05 ∧
  ErrCode.readError.code = 0x06 ∧ ErrCode.invalidArgument.code = 0x07 ∧ ErrCode.notOpen.code = 0x08 ∧
  ErrCode.modeConflict.code = 0x09 ∧ ErrCode.badState.code = 0x0A ∧ ErrCode.illegalCommand.code = 0x0B

/-- R46 to R54, R65, R68: what a host read answers, and that it changes nothing of the block; an UNWRITTEN entry reads as
some byte, and no statement is made of which. -/
def Obligations.HostReadsTheRegister : Prop :=
  ∀ (s : State) (agent off : Nat) (r : Reg) (rest : List Event),
    Inv s → isHeld agent s.held = false → s.inputs = .host agent (.read 4 (s.cfg.base + off)) :: rest →
    target off 4 = some r →
    ∃ v d, ReadAnswers r s v d ∧
      step s = .next { s with inputs := rest, openAnswer := none, bus := s.bus ++ [⟨agent, .data v⟩], draws := d }

/-- R47, R53, R65: what a host write to a register other than CMD does, in every phase; a write to a read-only register is
ignored. -/
def Obligations.HostWritesTheRegister : Prop :=
  ∀ (s : State) (agent off : Nat) (r : Reg) (v : Word) (rest : List Event),
    Inv s → isHeld agent s.held = false → s.inputs = .host agent (.write 4 (s.cfg.base + off) v) :: rest →
    target off 4 = some r → r ≠ .cmd →
    ∃ m, TxbufAfterWrite r v s.txbuf m ∧
      step s = .next
        { s with
          inputs := rest, openAnswer := none, bus := s.bus ++ [⟨agent, .done⟩], txbuf := m,
          txLen := if r = .txLen then v.extractLsb' 0 16 else s.txLen }

/-- R281: while BUSY a CMD write holds: it waits with its agent, and nothing else changes. No other access holds, and none
holds while BUSY is 0. -/
def Obligations.CmdWriteHoldsWhileBusy : Prop :=
  (∀ (s : State) (agent : Nat) (w : Word) (rest : List Event),
    s.cfg.wf = true → s.phase ≠ .idle → s.inputs = .host agent (.write 4 s.cfg.base w) :: rest →
    step s = .next
      { s with
        inputs := rest, openAnswer := none, held := s.held ++ [⟨agent, .write 4 s.cfg.base w, s.openAnswer⟩] }) ∧
  (∀ (acc : Access) (s : State), holds acc s = true ↔ s.phase ≠ .idle ∧ ∃ w, acc = .write 4 s.cfg.base w)

/-- R71, R281, R66: an access of an agent with an access held waits behind it; the agent's oldest held access is the one that
performs. A CMD write performs when the hold lifts and cannot before; any other access performs in every phase. What it then
does is what it would do if issued: a command, a reserved opcode, a read, a write of another register, a refused access. -/
def Obligations.HeldAccessesKeepTheirOrder : Prop :=
  (∀ (s : State) (agent : Nat) (acc : Access) (rest : List Event),
    s.cfg.wf = true → isHeld agent s.held = true → (offsetOf s.cfg acc.addr).isSome = true →
    s.inputs = .host agent acc :: rest →
    step s = .next { s with inputs := rest, openAnswer := none, held := s.held ++ [⟨agent, acc, s.openAnswer⟩] }) ∧
  (∀ (s : State) (h : HeldAccess) (before after : List HeldAccess) (rest : List Event),
    Inv s → s.inputs = .resume h.agent :: rest → s.held = before ++ h :: after →
    (∀ x ∈ before, x.agent ≠ h.agent) →
    (∀ w, h.acc = .write 4 s.cfg.base w →
      (s.phase ≠ .idle → step s = .fault (.notEnabled (.resume h.agent))) ∧
      (∀ i, s.phase = .idle → decode w = .cmd i → step s =
        andThen (exec i { s with inputs := rest, held := before ++ after, openAnswer := h.openAnswer })
          (fun t => quiesce (answer h.agent .done t))) ∧
      (∀ op, s.phase = .idle → decode w = .illegal op → step s = .next
        { s with
          inputs := rest, held := before ++ after, openAnswer := none, err := .illegalCommand,
          bus := s.bus ++ [⟨h.agent, .done⟩] })) ∧
    (∀ off r, h.acc = .read 4 (s.cfg.base + off) → target off 4 = some r →
      ∃ v d, ReadAnswers r s v d ∧ step s = .next
        { s with
          inputs := rest, held := before ++ after, openAnswer := none, bus := s.bus ++ [⟨h.agent, .data v⟩],
          draws := d }) ∧
    (∀ off r v, h.acc = .write 4 (s.cfg.base + off) v → target off 4 = some r → r ≠ .cmd →
      ∃ m, TxbufAfterWrite r v s.txbuf m ∧ step s = .next
        { s with
          inputs := rest, held := before ++ after, openAnswer := none, bus := s.bus ++ [⟨h.agent, .done⟩], txbuf := m,
          txLen := if r = .txLen then v.extractLsb' 0 16 else s.txLen }) ∧
    (∀ off, offsetOf s.cfg h.acc.addr = some off → target off h.acc.width = none →
      step s = .next
        { s with
          inputs := rest, held := before ++ after, openAnswer := none, bus := s.bus ++ [⟨h.agent, .busError⟩] }))

/-! ### What the device and the ticks do to the transport -/

/-- R162, R190: an arriving byte while no read takes it is lost when closed, kept when there is room, dropped with `rx_ovr`
when there is none. A fixed-length receive takes it at once into entry `rx_len`, and goes on or, with its count met, ends with
NONE. -/
def Obligations.ArrivingByteIsBuffered : Prop :=
  ∀ (s : State) (b : Byte) (rest : List Event), Inv s → s.inputs = .rxByte b :: rest →
    (s.phase ≠ .rFixed → s.monState ≠ .running →
      (s.conn = .closed → step s = .next { s with inputs := rest, openAnswer := none }) ∧
      (s.conn = .opened → s.rxFifo.length < s.cfg.rxFifoDepth →
        step s = .next { s with inputs := rest, openAnswer := none, rxFifo := s.rxFifo ++ [b] }) ∧
      (s.conn = .opened → s.rxFifo.length = s.cfg.rxFifoDepth →
        step s = .next { s with inputs := rest, openAnswer := none, rxOvr := true })) ∧
    (s.phase = .rFixed → ∃ m : Memory, m.read s.rxLen.toNat = some b ∧ SameOutside s.rxLen.toNat 1 s.rxbuf m ∧
      (s.rxLen.toNat + 1 < s.rxExpect.toNat →
        step s = .next { s with inputs := rest, openAnswer := none, rxbuf := m, rxLen := s.rxLen + 1 }) ∧
      (s.rxLen.toNat + 1 = s.rxExpect.toNat → ∃ bs, Entries m s.rxExpect.toNat bs ∧
        step s = .next
          { s with
            inputs := rest, openAnswer := none, rxbuf := m, rxLen := s.rxExpect, err := .none, phase := .idle, tmr := 0,
            curTransfer := false, curExpected := 0, txShadow := [], trace := s.trace ++ receiveTrace s.cfg bs }))

/-- R180, R181: WriteOk puts the frame on the line and starts the inter-frame delay; WriteFail puts a prefix on the line and
ends the command with WRITE_ERROR, with no delay and no receive. -/
def Obligations.WriteResultsContinueOrEnd : Prop :=
  ∀ (s : State) (rest : List Event), Inv s → s.phase = .sWrite →
    (s.inputs = .writeOk :: rest →
      step s = .next
        { s with inputs := rest, openAnswer := none, wire := s.wire ++ s.txShadow, phase := .sIfd, tmr := 0 }) ∧
    (∀ k, k ≤ s.txShadow.length → s.inputs = .writeFail k :: rest →
      step s = .next
        { s with
          inputs := rest, openAnswer := none, wire := s.wire ++ s.txShadow.take k, err := .writeError, phase := .idle,
          tmr := 0, curTransfer := false, curExpected := 0, txShadow := [] })

/-- R163, R164: a read failure with no read pending, and a write result outside S_WRITE or past the frame, have no move. R166:
a tick always has one, and in IDLE and S_WRITE with no monitor running it has no effect. -/
def Obligations.DisabledDeviceEventsHaveNoMove : Prop :=
  ∀ (s : State) (rest : List Event), s.cfg.wf = true →
    (s.phase ≠ .rFixed → s.phase ≠ .rSettle → s.monState ≠ .running → s.inputs = .rxError :: rest →
      step s = .fault (.notEnabled .rxError)) ∧
    (s.phase ≠ .sWrite → s.inputs = .writeOk :: rest → step s = .fault (.notEnabled .writeOk)) ∧
    (∀ k, s.phase ≠ .sWrite ∨ s.txShadow.length < k → s.inputs = .writeFail k :: rest →
      step s = .fault (.notEnabled (.writeFail k))) ∧
    (s.phase = .idle ∨ s.phase = .sWrite → s.monState ≠ .running → s.inputs = .tick :: rest →
      step s = .next { s with inputs := rest, openAnswer := none })

/-- R182: ticks count the inter-frame delay; its last one ends a SEND or starts a TRANSFER's receive, which at once takes
what is buffered. -/
def Obligations.DelayTicksEndInTheReceive : Prop :=
  ∀ (s : State) (rest : List Event), Inv s → s.phase = .sIfd → s.inputs = .tick :: rest →
    (s.tmr + 1 < s.cfg.tIfd → step s = .next { s with inputs := rest, openAnswer := none, tmr := s.tmr + 1 }) ∧
    (s.tmr + 1 = s.cfg.tIfd → s.curTransfer = false → step s = .next
      { s with
        inputs := rest, openAnswer := none, err := .none, phase := .idle, tmr := 0, curTransfer := false,
        curExpected := 0, txShadow := [] }) ∧
    (s.tmr + 1 = s.cfg.tIfd → s.curTransfer = true → step s = .next (quiesce
      { s with
        inputs := rest, openAnswer := none, rxLen := 0, rxExpect := s.curExpected, tmr := 0,
        phase := if s.curExpected = 0 then .rSettle else .rFixed }))

/-- R190, R197, R198: a fixed-length receive takes the bytes there are up to its count, in arrival order into the entries
from `rx_len` on; with the count met it ends with NONE and surplus bytes stay in `rx_fifo`. -/
def Obligations.FixedReceiveTakesAvailableBytes : Prop :=
  ∀ s : State, s.phase = .rFixed → s.monState ≠ .running → s.rxLen.toNat ≤ s.rxExpect.toNat → s.rxExpect.toNat ≤ 256 →
    (∀ i, i < s.rxLen.toNat → (s.rxbuf.read i).isSome = true) →
    ∃ m : Memory,
      (∀ i, i < min s.rxFifo.length (s.rxExpect.toNat - s.rxLen.toNat) → m.read (s.rxLen.toNat + i) = s.rxFifo[i]?) ∧
      SameOutside s.rxLen.toNat (min s.rxFifo.length (s.rxExpect.toNat - s.rxLen.toNat)) s.rxbuf m ∧
      (s.rxFifo.length < s.rxExpect.toNat - s.rxLen.toNat →
        quiesce s = { s with rxbuf := m, rxLen := s.rxLen + BitVec.ofNat 16 s.rxFifo.length, rxFifo := [] }) ∧
      (s.rxExpect.toNat - s.rxLen.toNat ≤ s.rxFifo.length →
        ∃ bs, Entries m s.rxExpect.toNat bs ∧
          quiesce s =
            { s with
              rxbuf := m, rxLen := s.rxExpect, rxFifo := s.rxFifo.drop (s.rxExpect.toNat - s.rxLen.toNat),
              err := .none, phase := .idle, tmr := 0, curTransfer := false, curExpected := 0, txShadow := [],
              trace := s.trace ++ receiveTrace s.cfg bs })

/-- R192, R198: ticks count the receive window; its last one ends the receive with RECEIVE_TIMEOUT when no byte came and
LENGTH_MISMATCH otherwise, and the bytes received stay. -/
def Obligations.ReceiveWindowEnds : Prop :=
  ∀ (s : State) (rest : List Event), Inv s → s.phase = .rFixed → s.inputs = .tick :: rest →
    (s.tmr + 1 < s.cfg.tRx → step s = .next { s with inputs := rest, openAnswer := none, tmr := s.tmr + 1 }) ∧
    (s.tmr + 1 = s.cfg.tRx → ∃ bs, Entries s.rxbuf s.rxLen.toNat bs ∧
      step s = .next
        { s with
          inputs := rest, openAnswer := none, err := if s.rxLen = 0 then .receiveTimeout else .lengthMismatch,
          phase := .idle, tmr := 0, curTransfer := false, curExpected := 0, txShadow := [],
          trace := s.trace ++ receiveTrace s.cfg bs })

/-- R194, R198: ticks count the settle delay; its last one takes at most 256 bytes, in arrival order from entry 0 on, leaves
the rest in `rx_fifo` and marks them in `rx_ovr`. -/
def Obligations.SettleDelayDrains : Prop :=
  ∀ (s : State) (rest : List Event), Inv s → s.phase = .rSettle → s.inputs = .tick :: rest →
    (s.tmr + 1 < s.cfg.tSettle → step s = .next { s with inputs := rest, openAnswer := none, tmr := s.tmr + 1 }) ∧
    (s.tmr + 1 = s.cfg.tSettle → ∃ m : Memory,
      (∀ i, i < min s.rxFifo.length 256 → m.read i = s.rxFifo[i]?) ∧
      SameOutside 0 (min s.rxFifo.length 256) s.rxbuf m ∧
      step s = .next
        { s with
          inputs := rest, openAnswer := none, rxbuf := m, rxLen := BitVec.ofNat 16 (min s.rxFifo.length 256),
          rxFifo := s.rxFifo.drop 256,
          rxOvr := s.rxOvr || decide (256 < s.rxFifo.length),
          err := if s.rxFifo = [] then .receiveTimeout else .none, phase := .idle, tmr := 0,
          curTransfer := false, curExpected := 0, txShadow := [],
          trace := s.trace ++ receiveTrace s.cfg (s.rxFifo.take 256) })

/-- R196, R198: a read failure ends a receive with READ_ERROR; the bytes collected stay. -/
def Obligations.ReadFailureEndsTheReceive : Prop :=
  ∀ (s : State) (rest : List Event), Inv s → s.phase = .rFixed ∨ s.phase = .rSettle → s.inputs = .rxError :: rest →
    ∃ bs, Entries s.rxbuf s.rxLen.toNat bs ∧
      step s = .next
        { s with
          inputs := rest, openAnswer := none, err := .readError, phase := .idle, tmr := 0, curTransfer := false,
          curExpected := 0, txShadow := [], trace := s.trace ++ receiveTrace s.cfg bs }

/-- R200, R281, R75: no host access changes a transaction in progress: its phase, timer, frame, received bytes, receive
buffer, accumulator or error code. -/
def Obligations.HostCannotDisturbATransaction : Prop :=
  ∀ (s t : State) (e : Event) (rest : List Event), Inv s → s.phase ≠ .idle → isHostEvent e = true →
    s.inputs = e :: rest → step s = .next t →
    t.phase = s.phase ∧ t.tmr = s.tmr ∧ t.curTransfer = s.curTransfer ∧ t.curExpected = s.curExpected ∧
      t.txShadow = s.txShadow ∧ t.rxFifo = s.rxFifo ∧ t.rxLen = s.rxLen ∧ t.rxExpect = s.rxExpect ∧ t.err = s.err ∧
      t.accHi = s.accHi ∧ t.accLo = s.accLo ∧ t.conn = s.conn ∧ t.monState = s.monState ∧ t.wire = s.wire ∧
      (∀ a, t.rxbuf.read a = s.rxbuf.read a)

/-- R202: after the write result a transport command has at most `T_IFD + max(T_RX, T_SETTLE)` ticks left; every tick lowers
that bound, no other event raises it, and it is 0 only when the command has ended. -/
def Obligations.TransportCommandsTerminate : Prop :=
  (∀ (s : State), Inv s → ticksLeft s ≤ s.cfg.tIfd + max s.cfg.tRx s.cfg.tSettle) ∧
  (∀ (s : State), Inv s → s.phase ≠ .sWrite → (ticksLeft s = 0 ↔ s.phase = .idle)) ∧
  (∀ (s t : State) (rest : List Event), Inv s → s.phase = .sWrite → s.inputs = .writeOk :: rest → step s = .next t →
    t.phase = .sIfd) ∧
  (∀ (s t : State) (e : Event) (rest : List Event), Inv s → s.phase ≠ .idle → s.phase ≠ .sWrite →
    s.inputs = e :: rest → step s = .next t →
    t.phase ≠ .sWrite ∧ ticksLeft t ≤ ticksLeft s ∧ (e = .tick → ticksLeft t < ticksLeft s))

/-! ### What the line and the ticks do to the monitor -/

/-- R214, R216, R220: a running monitor takes an arriving byte at once, restarts its silence timer, and stops there if a
stop was requested. The second part says it of the loop over any number of waiting bytes: all are taken, those past
MON_BUF_MAX only mark the frame over-length, and with a stop requested the first ends the run and the rest stay. -/
def Obligations.MonitorTakesAByte : Prop :=
  (∀ (s : State) (b : Byte) (rest : List Event), Inv s → s.monState = .running → s.inputs = .rxByte b :: rest →
    (s.monStopReq = false → step s = .next
      { s with
        inputs := rest, openAnswer := none, mtmr := 0,
        monBuf := if s.monBuf.length < s.cfg.monBufMax then s.monBuf ++ [b] else s.monBuf,
        monOvfPend := if s.monBuf.length < s.cfg.monBufMax then s.monOvfPend else true }) ∧
    (s.monStopReq = true → step s = .next
      { s with
        inputs := rest, openAnswer := none, monState := .stopped, monBuf := [], monOvfPend := false,
        monStopReq := false, mtmr := 0 })) ∧
  (∀ s : State, s.phase ≠ .rFixed → s.monState = .running →
    (s.rxFifo = [] → quiesce s = s) ∧
    (s.monStopReq = false → s.rxFifo ≠ [] → quiesce s =
      { s with
        rxFifo := [], mtmr := 0, monBuf := s.monBuf ++ s.rxFifo.take (s.cfg.monBufMax - s.monBuf.length),
        monOvfPend := s.monOvfPend || decide (s.cfg.monBufMax - s.monBuf.length < s.rxFifo.length) }) ∧
    (∀ b l, s.monStopReq = true → s.rxFifo = b :: l → quiesce s =
      { s with
        rxFifo := l, monState := .stopped, monBuf := [], monOvfPend := false, monStopReq := false, mtmr := 0 }))

/-- R214, R218, R220: a tick counts the silence; at T_GAP the frame is discarded if over-length, reported if it passes the
filter, dropped silently otherwise, and the run stops there if a stop was requested. -/
def Obligations.SilenceClosesTheFrame : Prop :=
  ∀ (s : State) (rest : List Event), Inv s → s.monState = .running → s.inputs = .tick :: rest →
    (s.mtmr + 1 < s.cfg.tGap → step s = .next { s with inputs := rest, openAnswer := none, mtmr := s.mtmr + 1 }) ∧
    (s.mtmr + 1 = s.cfg.tGap → step s = .next
      { s with
        inputs := rest, openAnswer := none, mtmr := 0, monBuf := [], monOvfPend := false,
        monOvf := s.monOvf || (s.monOvfPend && decide (s.monBuf ≠ [])),
        reports :=
          if s.monBuf ≠ [] ∧ s.monOvfPend = false ∧ (s.monFilter = 0 ∨ s.monBuf.head? = some s.monFilter)
          then s.reports ++ [.monFrame s.monBuf] else s.reports,
        monState := if s.monStopReq then .stopped else .running, monStopReq := false })

/-- R222: a read failure stops a run after reporting it, silently if a stop was already requested. -/
def Obligations.ReadFailureStopsTheMonitor : Prop :=
  ∀ (s : State) (rest : List Event), Inv s → s.monState = .running → s.inputs = .rxError :: rest →
    step s = .next
      { s with
        inputs := rest, openAnswer := none, monState := .stopped, monBuf := [], monOvfPend := false, monStopReq := false,
        mtmr := 0, monErr := if s.monStopReq then s.monErr else true,
        reports := if s.monStopReq then s.reports else s.reports ++ [.monReadError] }

/-- R224: a run with a stop requested stays so, every tick brings it nearer to its timeout, and it stops at the timeout at
the latest. -/
def Obligations.StopTakesEffectWithinTheGap : Prop :=
  ∀ (s t : State) (e : Event) (rest : List Event), Inv s → s.monState = .running → s.monStopReq = true →
    s.inputs = e :: rest → step s = .next t →
    (t.monState = .running → t.monStopReq = true ∧ s.mtmr ≤ t.mtmr ∧ (e = .tick → s.mtmr < t.mtmr)) ∧
    (t.monState ≠ .running → t.monState = .stopped ∨ isReset e = true) ∧
    ((∃ b, e = .rxByte b) ∨ e = .rxError ∨ (e = .tick ∧ s.mtmr + 1 = s.cfg.tGap) → t.monState = .stopped)

/-- R226, R220: bytes with fewer than T_GAP ticks after each but the last, and no other event among them, are one frame. It is
closed on the T_GAP-th tick after the last: longer than MON_BUF_MAX it is discarded and marked in `mon_ovf`; otherwise, with
the filter passed, exactly one report of it is made. `spaced` pairs each byte but the last with the ticks after it. -/
def Obligations.SilenceGapFraming : Prop :=
  ∀ (s : State) (spaced : List (Byte × Nat)) (b : Byte) (rest : List Event),
    Inv s → s.monState = .running → s.monStopReq = false → s.monBuf = [] → (∀ p ∈ spaced, p.2 < s.cfg.tGap) →
    s.inputs = (spaced.flatMap fun p => .rxByte p.1 :: List.replicate p.2 .tick) ++
      .rxByte b :: (List.replicate s.cfg.tGap .tick ++ rest) →
    let frame := spaced.map Prod.fst ++ [b]
    Host.Core.run Sys2Proof.core ((spaced.map fun p => p.2 + 1).sum + 1 + s.cfg.tGap) s = .next
      { s with
        inputs := rest, openAnswer := none, mtmr := 0,
        monOvf := s.monOvf || decide (s.cfg.monBufMax < frame.length),
        reports :=
          if frame.length ≤ s.cfg.monBufMax ∧ (s.monFilter = 0 ∨ frame.head? = some s.monFilter)
          then s.reports ++ [.monFrame frame] else s.reports }

/-- R230: what a running monitor does to the bytes, ticks and failures of the line writes its own state, `mon_err`, `mon_ovf`
and its report port, and no other field of the block: of `rx_fifo` it takes every byte. -/
def Obligations.MonitorWritesOnlyItsOwn : Prop :=
  ∀ (s t : State) (e : Event) (rest : List Event), Inv s → s.monState = .running → isHostEvent e = false →
    isReset e = false → s.inputs = e :: rest → step s = .next t →
    t.rxFifo = [] ∧
    t = { s with
      inputs := rest, openAnswer := t.openAnswer, monState := t.monState, monStopReq := t.monStopReq,
      monBuf := t.monBuf, monOvfPend := t.monOvfPend, mtmr := t.mtmr, monErr := t.monErr, monOvf := t.monOvf,
      reports := t.reports }

/-! ### The whole block -/

/-- R244: one pass of quiescence is enough. -/
def Obligations.QuiescenceIsStable : Prop := ∀ s : State, quiesce (quiesce s) = quiesce s

/-- R44: the invariants hold after reset. -/
def Obligations.InvariantsHoldAtReset : Prop := Inv State.reset

/-- R44: every step keeps the invariants, whatever event the environment chooses. -/
def Obligations.EveryStepKeepsTheInvariants : Prop := ∀ s t : State, Inv s → step s = .next t → Inv t

/-- R43: the output ports, and the records of the device interface and the bus, only ever grow at their end. -/
def Obligations.PortsOnlyGrow : Prop :=
  ∀ s t : State, step s = .next t →
    s.wire <+: t.wire ∧ s.reports <+: t.reports ∧ s.trace <+: t.trace ∧ s.devOps <+: t.devOps ∧ s.bus <+: t.bus

/-- R9, R246: no step changes the configuration, and with VERBOSE false no trace event occurs. -/
def Obligations.ConfigurationIsConstantAndGatesTheTrace : Prop :=
  ∀ s t : State, step s = .next t → t.cfg = s.cfg ∧ (s.cfg.verbose = false → t.trace = s.trace)

/-- R280: how the modes follow each other, by the columns 'entered by' and 'left by' of its table. -/
def Obligations.ModesFollowTheTable : Prop :=
  ∀ s t : State, Inv s → step s = .next t →
    (modeOf s = .closed →
      modeOf t = .closed ∨ (modeOf t = .ready ∧ ∃ p, stepCommand s = some (.openPort p))) ∧
    (modeOf s = .ready →
      modeOf t = .ready ∨
      (modeOf t = .closed ∧ (stepCommand s = some .close ∨ isReset (takeEvent s).1 = true)) ∨
      (modeOf t = .transaction ∧ ((∃ a, stepCommand s = some (.send a)) ∨ (∃ n, stepCommand s = some (.receive n)) ∨
        ∃ a n, stepCommand s = some (.transfer a n))) ∨
      (modeOf t = .monitoring ∧ ∃ f, stepCommand s = some (.monStart f))) ∧
    (modeOf s = .transaction →
      modeOf t = .transaction ∨ (modeOf t = .ready ∧ isHostEvent (takeEvent s).1 = false) ∨
      (modeOf t = .closed ∧ isReset (takeEvent s).1 = true)) ∧
    (modeOf s = .monitoring →
      modeOf t = .monitoring ∨
      (modeOf t = .ready ∧ t.monState = .stopped ∧ isHostEvent (takeEvent s).1 = false) ∨
      (modeOf t = .closed ∧ isReset (takeEvent s).1 = true))

/-- R178: a TRANSFER in S_WRITE whose write succeeds and whose response of the expected length arrives in the window, with
fewer than T_RX ticks in all before its last byte and no other event among them, ends with NONE, the frame on the line and the
response in `rxbuf`. `spaced` pairs each byte with the ticks before it. -/
def Obligations.TransferDeliversTheResponse : Prop :=
  ∀ (s : State) (spaced : List (Byte × Nat)) (rest : List Event),
    Inv s → s.phase = .sWrite → s.curTransfer = true → s.rxFifo = [] →
    spaced ≠ [] → spaced.length = s.curExpected.toNat → (spaced.map Prod.snd).sum < s.cfg.tRx →
    s.inputs = .writeOk :: (List.replicate s.cfg.tIfd .tick ++
      ((spaced.flatMap fun p => List.replicate p.2 .tick ++ [.rxByte p.1]) ++ rest)) →
    let response := spaced.map Prod.fst
    ∃ t, Host.Core.run Sys2Proof.core (1 + s.cfg.tIfd + (spaced.map fun p => p.2 + 1).sum) s = .next t ∧
      t.phase = .idle ∧ t.err = .none ∧ t.wire = s.wire ++ s.txShadow ∧ t.rxLen = s.curExpected ∧
      t.rxExpect = s.curExpected ∧ Entries t.rxbuf spaced.length response ∧ t.rxFifo = [] ∧ t.inputs = rest ∧
      t.trace = s.trace ++ receiveTrace s.cfg response

/-- R247: the line of a trace event, the two spaces and the upper-case digits of it included. A frame has at most 258 bytes
(R32). -/
def Obligations.TraceLineIsTheFormat : Prop :=
  ∀ s : List Byte, s.length ≤ 258 →
    let tail := Nat.toDigits 10 s.length ++ [' ', 'B', 'y', 't', 'e', 's', ':', ' ', ' '] ++
      List.intercalate [' '] (s.map fun b =>
        [['0', '1', '2', '3', '4', '5', '6', '7', '8', '9', 'A', 'B', 'C', 'D', 'E', 'F'].getD (b.toNat / 16) ' ',
          ['0', '1', '2', '3', '4', '5', '6', '7', '8', '9', 'A', 'B', 'C', 'D', 'E', 'F'].getD (b.toNat % 16) ' '])
    (TraceEvent.tx s).line = ['T', 'X', ' '] ++ tail ∧ (TraceEvent.rx s).line = ['R', 'X', ' '] ++ tail
end

