-- ==== Sys2Proof/Laws/State.lean ====
section
/-! SUPPORT. One lemma per field per shared update of the state: what the update makes of the field. A later proof cites
these and never unfolds the update. -/

namespace Sys2Proof.Laws

open Sys2Proof.Machine

/-! ### emitWire -/

@[simp] theorem emitWire_conn (bs : List Byte) (s : State) : (emitWire bs s).conn = s.conn := rfl

@[simp] theorem emitWire_accHi (bs : List Byte) (s : State) : (emitWire bs s).accHi = s.accHi := rfl

@[simp] theorem emitWire_accLo (bs : List Byte) (s : State) : (emitWire bs s).accLo = s.accLo := rfl

@[simp] theorem emitWire_txbuf (bs : List Byte) (s : State) : (emitWire bs s).txbuf = s.txbuf := rfl

@[simp] theorem emitWire_txLen (bs : List Byte) (s : State) : (emitWire bs s).txLen = s.txLen := rfl

@[simp] theorem emitWire_rxbuf (bs : List Byte) (s : State) : (emitWire bs s).rxbuf = s.rxbuf := rfl

@[simp] theorem emitWire_rxLen (bs : List Byte) (s : State) : (emitWire bs s).rxLen = s.rxLen := rfl

@[simp] theorem emitWire_rxExpect (bs : List Byte) (s : State) : (emitWire bs s).rxExpect = s.rxExpect := rfl

@[simp] theorem emitWire_phase (bs : List Byte) (s : State) : (emitWire bs s).phase = s.phase := rfl

@[simp] theorem emitWire_tmr (bs : List Byte) (s : State) : (emitWire bs s).tmr = s.tmr := rfl

@[simp] theorem emitWire_curTransfer (bs : List Byte) (s : State) : (emitWire bs s).curTransfer = s.curTransfer := rfl

@[simp] theorem emitWire_curExpected (bs : List Byte) (s : State) : (emitWire bs s).curExpected = s.curExpected := rfl

@[simp] theorem emitWire_txShadow (bs : List Byte) (s : State) : (emitWire bs s).txShadow = s.txShadow := rfl

@[simp] theorem emitWire_rxFifo (bs : List Byte) (s : State) : (emitWire bs s).rxFifo = s.rxFifo := rfl

@[simp] theorem emitWire_err (bs : List Byte) (s : State) : (emitWire bs s).err = s.err := rfl

@[simp] theorem emitWire_rxOvr (bs : List Byte) (s : State) : (emitWire bs s).rxOvr = s.rxOvr := rfl

@[simp] theorem emitWire_monOvf (bs : List Byte) (s : State) : (emitWire bs s).monOvf = s.monOvf := rfl

@[simp] theorem emitWire_monErr (bs : List Byte) (s : State) : (emitWire bs s).monErr = s.monErr := rfl

@[simp] theorem emitWire_monState (bs : List Byte) (s : State) : (emitWire bs s).monState = s.monState := rfl

@[simp] theorem emitWire_monFilter (bs : List Byte) (s : State) : (emitWire bs s).monFilter = s.monFilter := rfl

@[simp] theorem emitWire_monStopReq (bs : List Byte) (s : State) : (emitWire bs s).monStopReq = s.monStopReq := rfl

@[simp] theorem emitWire_monBuf (bs : List Byte) (s : State) : (emitWire bs s).monBuf = s.monBuf := rfl

@[simp] theorem emitWire_monOvfPend (bs : List Byte) (s : State) : (emitWire bs s).monOvfPend = s.monOvfPend := rfl

@[simp] theorem emitWire_mtmr (bs : List Byte) (s : State) : (emitWire bs s).mtmr = s.mtmr := rfl

@[simp] theorem emitWire_wire (bs : List Byte) (s : State) : (emitWire bs s).wire = s.wire ++ bs := rfl

@[simp] theorem emitWire_reports (bs : List Byte) (s : State) : (emitWire bs s).reports = s.reports := rfl

@[simp] theorem emitWire_trace (bs : List Byte) (s : State) : (emitWire bs s).trace = s.trace := rfl

@[simp] theorem emitWire_devOps (bs : List Byte) (s : State) : (emitWire bs s).devOps = s.devOps := rfl

@[simp] theorem emitWire_bus (bs : List Byte) (s : State) : (emitWire bs s).bus = s.bus := rfl

@[simp] theorem emitWire_cfg (bs : List Byte) (s : State) : (emitWire bs s).cfg = s.cfg := rfl

@[simp] theorem emitWire_inputs (bs : List Byte) (s : State) : (emitWire bs s).inputs = s.inputs := rfl

@[simp] theorem emitWire_held (bs : List Byte) (s : State) : (emitWire bs s).held = s.held := rfl

@[simp] theorem emitWire_openAnswer (bs : List Byte) (s : State) : (emitWire bs s).openAnswer = s.openAnswer := rfl

@[simp] theorem emitWire_draws (bs : List Byte) (s : State) : (emitWire bs s).draws = s.draws := rfl

/-! ### report -/

@[simp] theorem report_conn (e : Report) (s : State) : (report e s).conn = s.conn := rfl

@[simp] theorem report_accHi (e : Report) (s : State) : (report e s).accHi = s.accHi := rfl

@[simp] theorem report_accLo (e : Report) (s : State) : (report e s).accLo = s.accLo := rfl

@[simp] theorem report_txbuf (e : Report) (s : State) : (report e s).txbuf = s.txbuf := rfl

@[simp] theorem report_txLen (e : Report) (s : State) : (report e s).txLen = s.txLen := rfl

@[simp] theorem report_rxbuf (e : Report) (s : State) : (report e s).rxbuf = s.rxbuf := rfl

@[simp] theorem report_rxLen (e : Report) (s : State) : (report e s).rxLen = s.rxLen := rfl

@[simp] theorem report_rxExpect (e : Report) (s : State) : (report e s).rxExpect = s.rxExpect := rfl

@[simp] theorem report_phase (e : Report) (s : State) : (report e s).phase = s.phase := rfl

@[simp] theorem report_tmr (e : Report) (s : State) : (report e s).tmr = s.tmr := rfl

@[simp] theorem report_curTransfer (e : Report) (s : State) : (report e s).curTransfer = s.curTransfer := rfl

@[simp] theorem report_curExpected (e : Report) (s : State) : (report e s).curExpected = s.curExpected := rfl

@[simp] theorem report_txShadow (e : Report) (s : State) : (report e s).txShadow = s.txShadow := rfl

@[simp] theorem report_rxFifo (e : Report) (s : State) : (report e s).rxFifo = s.rxFifo := rfl

@[simp] theorem report_err (e : Report) (s : State) : (report e s).err = s.err := rfl

@[simp] theorem report_rxOvr (e : Report) (s : State) : (report e s).rxOvr = s.rxOvr := rfl

@[simp] theorem report_monOvf (e : Report) (s : State) : (report e s).monOvf = s.monOvf := rfl

@[simp] theorem report_monErr (e : Report) (s : State) : (report e s).monErr = s.monErr := rfl

@[simp] theorem report_monState (e : Report) (s : State) : (report e s).monState = s.monState := rfl

@[simp] theorem report_monFilter (e : Report) (s : State) : (report e s).monFilter = s.monFilter := rfl

@[simp] theorem report_monStopReq (e : Report) (s : State) : (report e s).monStopReq = s.monStopReq := rfl

@[simp] theorem report_monBuf (e : Report) (s : State) : (report e s).monBuf = s.monBuf := rfl

@[simp] theorem report_monOvfPend (e : Report) (s : State) : (report e s).monOvfPend = s.monOvfPend := rfl

@[simp] theorem report_mtmr (e : Report) (s : State) : (report e s).mtmr = s.mtmr := rfl

@[simp] theorem report_wire (e : Report) (s : State) : (report e s).wire = s.wire := rfl

@[simp] theorem report_reports (e : Report) (s : State) : (report e s).reports = s.reports ++ [e] := rfl

@[simp] theorem report_trace (e : Report) (s : State) : (report e s).trace = s.trace := rfl

@[simp] theorem report_devOps (e : Report) (s : State) : (report e s).devOps = s.devOps := rfl

@[simp] theorem report_bus (e : Report) (s : State) : (report e s).bus = s.bus := rfl

@[simp] theorem report_cfg (e : Report) (s : State) : (report e s).cfg = s.cfg := rfl

@[simp] theorem report_inputs (e : Report) (s : State) : (report e s).inputs = s.inputs := rfl

@[simp] theorem report_held (e : Report) (s : State) : (report e s).held = s.held := rfl

@[simp] theorem report_openAnswer (e : Report) (s : State) : (report e s).openAnswer = s.openAnswer := rfl

@[simp] theorem report_draws (e : Report) (s : State) : (report e s).draws = s.draws := rfl

/-! ### drive -/

@[simp] theorem drive_conn (ops : List DevOp) (s : State) : (drive ops s).conn = s.conn := rfl

@[simp] theorem drive_accHi (ops : List DevOp) (s : State) : (drive ops s).accHi = s.accHi := rfl

@[simp] theorem drive_accLo (ops : List DevOp) (s : State) : (drive ops s).accLo = s.accLo := rfl

@[simp] theorem drive_txbuf (ops : List DevOp) (s : State) : (drive ops s).txbuf = s.txbuf := rfl

@[simp] theorem drive_txLen (ops : List DevOp) (s : State) : (drive ops s).txLen = s.txLen := rfl

@[simp] theorem drive_rxbuf (ops : List DevOp) (s : State) : (drive ops s).rxbuf = s.rxbuf := rfl

@[simp] theorem drive_rxLen (ops : List DevOp) (s : State) : (drive ops s).rxLen = s.rxLen := rfl

@[simp] theorem drive_rxExpect (ops : List DevOp) (s : State) : (drive ops s).rxExpect = s.rxExpect := rfl

@[simp] theorem drive_phase (ops : List DevOp) (s : State) : (drive ops s).phase = s.phase := rfl

@[simp] theorem drive_tmr (ops : List DevOp) (s : State) : (drive ops s).tmr = s.tmr := rfl

@[simp] theorem drive_curTransfer (ops : List DevOp) (s : State) : (drive ops s).curTransfer = s.curTransfer := rfl

@[simp] theorem drive_curExpected (ops : List DevOp) (s : State) : (drive ops s).curExpected = s.curExpected := rfl

@[simp] theorem drive_txShadow (ops : List DevOp) (s : State) : (drive ops s).txShadow = s.txShadow := rfl

@[simp] theorem drive_rxFifo (ops : List DevOp) (s : State) : (drive ops s).rxFifo = s.rxFifo := rfl

@[simp] theorem drive_err (ops : List DevOp) (s : State) : (drive ops s).err = s.err := rfl

@[simp] theorem drive_rxOvr (ops : List DevOp) (s : State) : (drive ops s).rxOvr = s.rxOvr := rfl

@[simp] theorem drive_monOvf (ops : List DevOp) (s : State) : (drive ops s).monOvf = s.monOvf := rfl

@[simp] theorem drive_monErr (ops : List DevOp) (s : State) : (drive ops s).monErr = s.monErr := rfl

@[simp] theorem drive_monState (ops : List DevOp) (s : State) : (drive ops s).monState = s.monState := rfl

@[simp] theorem drive_monFilter (ops : List DevOp) (s : State) : (drive ops s).monFilter = s.monFilter := rfl

@[simp] theorem drive_monStopReq (ops : List DevOp) (s : State) : (drive ops s).monStopReq = s.monStopReq := rfl

@[simp] theorem drive_monBuf (ops : List DevOp) (s : State) : (drive ops s).monBuf = s.monBuf := rfl

@[simp] theorem drive_monOvfPend (ops : List DevOp) (s : State) : (drive ops s).monOvfPend = s.monOvfPend := rfl

@[simp] theorem drive_mtmr (ops : List DevOp) (s : State) : (drive ops s).mtmr = s.mtmr := rfl

@[simp] theorem drive_wire (ops : List DevOp) (s : State) : (drive ops s).wire = s.wire := rfl

@[simp] theorem drive_reports (ops : List DevOp) (s : State) : (drive ops s).reports = s.reports := rfl

@[simp] theorem drive_trace (ops : List DevOp) (s : State) : (drive ops s).trace = s.trace := rfl

@[simp] theorem drive_devOps (ops : List DevOp) (s : State) : (drive ops s).devOps = s.devOps ++ ops := rfl

@[simp] theorem drive_bus (ops : List DevOp) (s : State) : (drive ops s).bus = s.bus := rfl

@[simp] theorem drive_cfg (ops : List DevOp) (s : State) : (drive ops s).cfg = s.cfg := rfl

@[simp] theorem drive_inputs (ops : List DevOp) (s : State) : (drive ops s).inputs = s.inputs := rfl

@[simp] theorem drive_held (ops : List DevOp) (s : State) : (drive ops s).held = s.held := rfl

@[simp] theorem drive_openAnswer (ops : List DevOp) (s : State) : (drive ops s).openAnswer = s.openAnswer := rfl

@[simp] theorem drive_draws (ops : List DevOp) (s : State) : (drive ops s).draws = s.draws := rfl

/-! ### answer -/

@[simp] theorem answer_conn (agent : Nat) (a : BusAnswer) (s : State) : (answer agent a s).conn = s.conn := rfl

@[simp] theorem answer_accHi (agent : Nat) (a : BusAnswer) (s : State) : (answer agent a s).accHi = s.accHi := rfl

@[simp] theorem answer_accLo (agent : Nat) (a : BusAnswer) (s : State) : (answer agent a s).accLo = s.accLo := rfl

@[simp] theorem answer_txbuf (agent : Nat) (a : BusAnswer) (s : State) : (answer agent a s).txbuf = s.txbuf := rfl

@[simp] theorem answer_txLen (agent : Nat) (a : BusAnswer) (s : State) : (answer agent a s).txLen = s.txLen := rfl

@[simp] theorem answer_rxbuf (agent : Nat) (a : BusAnswer) (s : State) : (answer agent a s).rxbuf = s.rxbuf := rfl

@[simp] theorem answer_rxLen (agent : Nat) (a : BusAnswer) (s : State) : (answer agent a s).rxLen = s.rxLen := rfl

@[simp] theorem answer_rxExpect (agent : Nat) (a : BusAnswer) (s : State) : (answer agent a s).rxExpect = s.rxExpect := rfl

@[simp] theorem answer_phase (agent : Nat) (a : BusAnswer) (s : State) : (answer agent a s).phase = s.phase := rfl

@[simp] theorem answer_tmr (agent : Nat) (a : BusAnswer) (s : State) : (answer agent a s).tmr = s.tmr := rfl

@[simp] theorem answer_curTransfer (agent : Nat) (a : BusAnswer) (s : State) : (answer agent a s).curTransfer = s.curTransfer := rfl

@[simp] theorem answer_curExpected (agent : Nat) (a : BusAnswer) (s : State) : (answer agent a s).curExpected = s.curExpected := rfl

@[simp] theorem answer_txShadow (agent : Nat) (a : BusAnswer) (s : State) : (answer agent a s).txShadow = s.txShadow := rfl

@[simp] theorem answer_rxFifo (agent : Nat) (a : BusAnswer) (s : State) : (answer agent a s).rxFifo = s.rxFifo := rfl

@[simp] theorem answer_err (agent : Nat) (a : BusAnswer) (s : State) : (answer agent a s).err = s.err := rfl

@[simp] theorem answer_rxOvr (agent : Nat) (a : BusAnswer) (s : State) : (answer agent a s).rxOvr = s.rxOvr := rfl

@[simp] theorem answer_monOvf (agent : Nat) (a : BusAnswer) (s : State) : (answer agent a s).monOvf = s.monOvf := rfl

@[simp] theorem answer_monErr (agent : Nat) (a : BusAnswer) (s : State) : (answer agent a s).monErr = s.monErr := rfl

@[simp] theorem answer_monState (agent : Nat) (a : BusAnswer) (s : State) : (answer agent a s).monState = s.monState := rfl

@[simp] theorem answer_monFilter (agent : Nat) (a : BusAnswer) (s : State) : (answer agent a s).monFilter = s.monFilter := rfl

@[simp] theorem answer_monStopReq (agent : Nat) (a : BusAnswer) (s : State) : (answer agent a s).monStopReq = s.monStopReq := rfl

@[simp] theorem answer_monBuf (agent : Nat) (a : BusAnswer) (s : State) : (answer agent a s).monBuf = s.monBuf := rfl

@[simp] theorem answer_monOvfPend (agent : Nat) (a : BusAnswer) (s : State) : (answer agent a s).monOvfPend = s.monOvfPend := rfl

@[simp] theorem answer_mtmr (agent : Nat) (a : BusAnswer) (s : State) : (answer agent a s).mtmr = s.mtmr := rfl

@[simp] theorem answer_wire (agent : Nat) (a : BusAnswer) (s : State) : (answer agent a s).wire = s.wire := rfl

@[simp] theorem answer_reports (agent : Nat) (a : BusAnswer) (s : State) : (answer agent a s).reports = s.reports := rfl

@[simp] theorem answer_trace (agent : Nat) (a : BusAnswer) (s : State) : (answer agent a s).trace = s.trace := rfl

@[simp] theorem answer_devOps (agent : Nat) (a : BusAnswer) (s : State) : (answer agent a s).devOps = s.devOps := rfl

@[simp] theorem answer_bus (agent : Nat) (a : BusAnswer) (s : State) : (answer agent a s).bus = s.bus ++ [⟨agent, a⟩] := rfl

@[simp] theorem answer_cfg (agent : Nat) (a : BusAnswer) (s : State) : (answer agent a s).cfg = s.cfg := rfl

@[simp] theorem answer_inputs (agent : Nat) (a : BusAnswer) (s : State) : (answer agent a s).inputs = s.inputs := rfl

@[simp] theorem answer_held (agent : Nat) (a : BusAnswer) (s : State) : (answer agent a s).held = s.held := rfl

@[simp] theorem answer_openAnswer (agent : Nat) (a : BusAnswer) (s : State) : (answer agent a s).openAnswer = none := rfl

@[simp] theorem answer_draws (agent : Nat) (a : BusAnswer) (s : State) : (answer agent a s).draws = s.draws := rfl

/-! ### traceIf -/

@[simp] theorem traceIf_conn (e : TraceEvent) (s : State) : (traceIf e s).conn = s.conn := by unfold traceIf; split <;> rfl

@[simp] theorem traceIf_accHi (e : TraceEvent) (s : State) : (traceIf e s).accHi = s.accHi := by unfold traceIf; split <;> rfl

@[simp] theorem traceIf_accLo (e : TraceEvent) (s : State) : (traceIf e s).accLo = s.accLo := by unfold traceIf; split <;> rfl

@[simp] theorem traceIf_txbuf (e : TraceEvent) (s : State) : (traceIf e s).txbuf = s.txbuf := by unfold traceIf; split <;> rfl

@[simp] theorem traceIf_txLen (e : TraceEvent) (s : State) : (traceIf e s).txLen = s.txLen := by unfold traceIf; split <;> rfl

@[simp] theorem traceIf_rxbuf (e : TraceEvent) (s : State) : (traceIf e s).rxbuf = s.rxbuf := by unfold traceIf; split <;> rfl

@[simp] theorem traceIf_rxLen (e : TraceEvent) (s : State) : (traceIf e s).rxLen = s.rxLen := by unfold traceIf; split <;> rfl

@[simp] theorem traceIf_rxExpect (e : TraceEvent) (s : State) : (traceIf e s).rxExpect = s.rxExpect := by unfold traceIf; split <;> rfl

@[simp] theorem traceIf_phase (e : TraceEvent) (s : State) : (traceIf e s).phase = s.phase := by unfold traceIf; split <;> rfl

@[simp] theorem traceIf_tmr (e : TraceEvent) (s : State) : (traceIf e s).tmr = s.tmr := by unfold traceIf; split <;> rfl

@[simp] theorem traceIf_curTransfer (e : TraceEvent) (s : State) : (traceIf e s).curTransfer = s.curTransfer := by unfold traceIf; split <;> rfl

@[simp] theorem traceIf_curExpected (e : TraceEvent) (s : State) : (traceIf e s).curExpected = s.curExpected := by unfold traceIf; split <;> rfl

@[simp] theorem traceIf_txShadow (e : TraceEvent) (s : State) : (traceIf e s).txShadow = s.txShadow := by unfold traceIf; split <;> rfl

@[simp] theorem traceIf_rxFifo (e : TraceEvent) (s : State) : (traceIf e s).rxFifo = s.rxFifo := by unfold traceIf; split <;> rfl

@[simp] theorem traceIf_err (e : TraceEvent) (s : State) : (traceIf e s).err = s.err := by unfold traceIf; split <;> rfl

@[simp] theorem traceIf_rxOvr (e : TraceEvent) (s : State) : (traceIf e s).rxOvr = s.rxOvr := by unfold traceIf; split <;> rfl

@[simp] theorem traceIf_monOvf (e : TraceEvent) (s : State) : (traceIf e s).monOvf = s.monOvf := by unfold traceIf; split <;> rfl

@[simp] theorem traceIf_monErr (e : TraceEvent) (s : State) : (traceIf e s).monErr = s.monErr := by unfold traceIf; split <;> rfl

@[simp] theorem traceIf_monState (e : TraceEvent) (s : State) : (traceIf e s).monState = s.monState := by unfold traceIf; split <;> rfl

@[simp] theorem traceIf_monFilter (e : TraceEvent) (s : State) : (traceIf e s).monFilter = s.monFilter := by unfold traceIf; split <;> rfl

@[simp] theorem traceIf_monStopReq (e : TraceEvent) (s : State) : (traceIf e s).monStopReq = s.monStopReq := by unfold traceIf; split <;> rfl

@[simp] theorem traceIf_monBuf (e : TraceEvent) (s : State) : (traceIf e s).monBuf = s.monBuf := by unfold traceIf; split <;> rfl

@[simp] theorem traceIf_monOvfPend (e : TraceEvent) (s : State) : (traceIf e s).monOvfPend = s.monOvfPend := by unfold traceIf; split <;> rfl

@[simp] theorem traceIf_mtmr (e : TraceEvent) (s : State) : (traceIf e s).mtmr = s.mtmr := by unfold traceIf; split <;> rfl

@[simp] theorem traceIf_wire (e : TraceEvent) (s : State) : (traceIf e s).wire = s.wire := by unfold traceIf; split <;> rfl

@[simp] theorem traceIf_reports (e : TraceEvent) (s : State) : (traceIf e s).reports = s.reports := by unfold traceIf; split <;> rfl

@[simp] theorem traceIf_trace (e : TraceEvent) (s : State) : (traceIf e s).trace = if s.cfg.verbose then s.trace ++ [e] else s.trace := by unfold traceIf; split <;> rfl

@[simp] theorem traceIf_devOps (e : TraceEvent) (s : State) : (traceIf e s).devOps = s.devOps := by unfold traceIf; split <;> rfl

@[simp] theorem traceIf_bus (e : TraceEvent) (s : State) : (traceIf e s).bus = s.bus := by unfold traceIf; split <;> rfl

@[simp] theorem traceIf_cfg (e : TraceEvent) (s : State) : (traceIf e s).cfg = s.cfg := by unfold traceIf; split <;> rfl

@[simp] theorem traceIf_inputs (e : TraceEvent) (s : State) : (traceIf e s).inputs = s.inputs := by unfold traceIf; split <;> rfl

@[simp] theorem traceIf_held (e : TraceEvent) (s : State) : (traceIf e s).held = s.held := by unfold traceIf; split <;> rfl

@[simp] theorem traceIf_openAnswer (e : TraceEvent) (s : State) : (traceIf e s).openAnswer = s.openAnswer := by unfold traceIf; split <;> rfl

@[simp] theorem traceIf_draws (e : TraceEvent) (s : State) : (traceIf e s).draws = s.draws := by unfold traceIf; split <;> rfl

/-! ### setErr -/

@[simp] theorem setErr_conn (e : ErrCode) (s : State) : (setErr e s).conn = s.conn := rfl

@[simp] theorem setErr_accHi (e : ErrCode) (s : State) : (setErr e s).accHi = s.accHi := rfl

@[simp] theorem setErr_accLo (e : ErrCode) (s : State) : (setErr e s).accLo = s.accLo := rfl

@[simp] theorem setErr_txbuf (e : ErrCode) (s : State) : (setErr e s).txbuf = s.txbuf := rfl

@[simp] theorem setErr_txLen (e : ErrCode) (s : State) : (setErr e s).txLen = s.txLen := rfl

@[simp] theorem setErr_rxbuf (e : ErrCode) (s : State) : (setErr e s).rxbuf = s.rxbuf := rfl

@[simp] theorem setErr_rxLen (e : ErrCode) (s : State) : (setErr e s).rxLen = s.rxLen := rfl

@[simp] theorem setErr_rxExpect (e : ErrCode) (s : State) : (setErr e s).rxExpect = s.rxExpect := rfl

@[simp] theorem setErr_phase (e : ErrCode) (s : State) : (setErr e s).phase = s.phase := rfl

@[simp] theorem setErr_tmr (e : ErrCode) (s : State) : (setErr e s).tmr = s.tmr := rfl

@[simp] theorem setErr_curTransfer (e : ErrCode) (s : State) : (setErr e s).curTransfer = s.curTransfer := rfl

@[simp] theorem setErr_curExpected (e : ErrCode) (s : State) : (setErr e s).curExpected = s.curExpected := rfl

@[simp] theorem setErr_txShadow (e : ErrCode) (s : State) : (setErr e s).txShadow = s.txShadow := rfl

@[simp] theorem setErr_rxFifo (e : ErrCode) (s : State) : (setErr e s).rxFifo = s.rxFifo := rfl

@[simp] theorem setErr_err (e : ErrCode) (s : State) : (setErr e s).err = e := rfl

@[simp] theorem setErr_rxOvr (e : ErrCode) (s : State) : (setErr e s).rxOvr = s.rxOvr := rfl

@[simp] theorem setErr_monOvf (e : ErrCode) (s : State) : (setErr e s).monOvf = s.monOvf := rfl

@[simp] theorem setErr_monErr (e : ErrCode) (s : State) : (setErr e s).monErr = s.monErr := rfl

@[simp] theorem setErr_monState (e : ErrCode) (s : State) : (setErr e s).monState = s.monState := rfl

@[simp] theorem setErr_monFilter (e : ErrCode) (s : State) : (setErr e s).monFilter = s.monFilter := rfl

@[simp] theorem setErr_monStopReq (e : ErrCode) (s : State) : (setErr e s).monStopReq = s.monStopReq := rfl

@[simp] theorem setErr_monBuf (e : ErrCode) (s : State) : (setErr e s).monBuf = s.monBuf := rfl

@[simp] theorem setErr_monOvfPend (e : ErrCode) (s : State) : (setErr e s).monOvfPend = s.monOvfPend := rfl

@[simp] theorem setErr_mtmr (e : ErrCode) (s : State) : (setErr e s).mtmr = s.mtmr := rfl

@[simp] theorem setErr_wire (e : ErrCode) (s : State) : (setErr e s).wire = s.wire := rfl

@[simp] theorem setErr_reports (e : ErrCode) (s : State) : (setErr e s).reports = s.reports := rfl

@[simp] theorem setErr_trace (e : ErrCode) (s : State) : (setErr e s).trace = s.trace := rfl

@[simp] theorem setErr_devOps (e : ErrCode) (s : State) : (setErr e s).devOps = s.devOps := rfl

@[simp] theorem setErr_bus (e : ErrCode) (s : State) : (setErr e s).bus = s.bus := rfl

@[simp] theorem setErr_cfg (e : ErrCode) (s : State) : (setErr e s).cfg = s.cfg := rfl

@[simp] theorem setErr_inputs (e : ErrCode) (s : State) : (setErr e s).inputs = s.inputs := rfl

@[simp] theorem setErr_held (e : ErrCode) (s : State) : (setErr e s).held = s.held := rfl

@[simp] theorem setErr_openAnswer (e : ErrCode) (s : State) : (setErr e s).openAnswer = s.openAnswer := rfl

@[simp] theorem setErr_draws (e : ErrCode) (s : State) : (setErr e s).draws = s.draws := rfl

/-! ### complete -/

@[simp] theorem complete_conn (e : ErrCode) (s : State) : (complete e s).conn = s.conn := rfl

@[simp] theorem complete_accHi (e : ErrCode) (s : State) : (complete e s).accHi = s.accHi := rfl

@[simp] theorem complete_accLo (e : ErrCode) (s : State) : (complete e s).accLo = s.accLo := rfl

@[simp] theorem complete_txbuf (e : ErrCode) (s : State) : (complete e s).txbuf = s.txbuf := rfl

@[simp] theorem complete_txLen (e : ErrCode) (s : State) : (complete e s).txLen = s.txLen := rfl

@[simp] theorem complete_rxbuf (e : ErrCode) (s : State) : (complete e s).rxbuf = s.rxbuf := rfl

@[simp] theorem complete_rxLen (e : ErrCode) (s : State) : (complete e s).rxLen = s.rxLen := rfl

@[simp] theorem complete_rxExpect (e : ErrCode) (s : State) : (complete e s).rxExpect = s.rxExpect := rfl

@[simp] theorem complete_phase (e : ErrCode) (s : State) : (complete e s).phase = .idle := rfl

@[simp] theorem complete_tmr (e : ErrCode) (s : State) : (complete e s).tmr = 0 := rfl

@[simp] theorem complete_curTransfer (e : ErrCode) (s : State) : (complete e s).curTransfer = false := rfl

@[simp] theorem complete_curExpected (e : ErrCode) (s : State) : (complete e s).curExpected = 0 := rfl

@[simp] theorem complete_txShadow (e : ErrCode) (s : State) : (complete e s).txShadow = [] := rfl

@[simp] theorem complete_rxFifo (e : ErrCode) (s : State) : (complete e s).rxFifo = s.rxFifo := rfl

@[simp] theorem complete_err (e : ErrCode) (s : State) : (complete e s).err = e := rfl

@[simp] theorem complete_rxOvr (e : ErrCode) (s : State) : (complete e s).rxOvr = s.rxOvr := rfl

@[simp] theorem complete_monOvf (e : ErrCode) (s : State) : (complete e s).monOvf = s.monOvf := rfl

@[simp] theorem complete_monErr (e : ErrCode) (s : State) : (complete e s).monErr = s.monErr := rfl

@[simp] theorem complete_monState (e : ErrCode) (s : State) : (complete e s).monState = s.monState := rfl

@[simp] theorem complete_monFilter (e : ErrCode) (s : State) : (complete e s).monFilter = s.monFilter := rfl

@[simp] theorem complete_monStopReq (e : ErrCode) (s : State) : (complete e s).monStopReq = s.monStopReq := rfl

@[simp] theorem complete_monBuf (e : ErrCode) (s : State) : (complete e s).monBuf = s.monBuf := rfl

@[simp] theorem complete_monOvfPend (e : ErrCode) (s : State) : (complete e s).monOvfPend = s.monOvfPend := rfl

@[simp] theorem complete_mtmr (e : ErrCode) (s : State) : (complete e s).mtmr = s.mtmr := rfl

@[simp] theorem complete_wire (e : ErrCode) (s : State) : (complete e s).wire = s.wire := rfl

@[simp] theorem complete_reports (e : ErrCode) (s : State) : (complete e s).reports = s.reports := rfl

@[simp] theorem complete_trace (e : ErrCode) (s : State) : (complete e s).trace = s.trace := rfl

@[simp] theorem complete_devOps (e : ErrCode) (s : State) : (complete e s).devOps = s.devOps := rfl

@[simp] theorem complete_bus (e : ErrCode) (s : State) : (complete e s).bus = s.bus := rfl

@[simp] theorem complete_cfg (e : ErrCode) (s : State) : (complete e s).cfg = s.cfg := rfl

@[simp] theorem complete_inputs (e : ErrCode) (s : State) : (complete e s).inputs = s.inputs := rfl

@[simp] theorem complete_held (e : ErrCode) (s : State) : (complete e s).held = s.held := rfl

@[simp] theorem complete_openAnswer (e : ErrCode) (s : State) : (complete e s).openAnswer = s.openAnswer := rfl

@[simp] theorem complete_draws (e : ErrCode) (s : State) : (complete e s).draws = s.draws := rfl

/-! ### setAcc -/

@[simp] theorem setAcc_conn (acc : Byte × Byte) (s : State) : (setAcc acc s).conn = s.conn := rfl

@[simp] theorem setAcc_accHi (acc : Byte × Byte) (s : State) : (setAcc acc s).accHi = acc.1 := rfl

@[simp] theorem setAcc_accLo (acc : Byte × Byte) (s : State) : (setAcc acc s).accLo = acc.2 := rfl

@[simp] theorem setAcc_txbuf (acc : Byte × Byte) (s : State) : (setAcc acc s).txbuf = s.txbuf := rfl

@[simp] theorem setAcc_txLen (acc : Byte × Byte) (s : State) : (setAcc acc s).txLen = s.txLen := rfl

@[simp] theorem setAcc_rxbuf (acc : Byte × Byte) (s : State) : (setAcc acc s).rxbuf = s.rxbuf := rfl

@[simp] theorem setAcc_rxLen (acc : Byte × Byte) (s : State) : (setAcc acc s).rxLen = s.rxLen := rfl

@[simp] theorem setAcc_rxExpect (acc : Byte × Byte) (s : State) : (setAcc acc s).rxExpect = s.rxExpect := rfl

@[simp] theorem setAcc_phase (acc : Byte × Byte) (s : State) : (setAcc acc s).phase = s.phase := rfl

@[simp] theorem setAcc_tmr (acc : Byte × Byte) (s : State) : (setAcc acc s).tmr = s.tmr := rfl

@[simp] theorem setAcc_curTransfer (acc : Byte × Byte) (s : State) : (setAcc acc s).curTransfer = s.curTransfer := rfl

@[simp] theorem setAcc_curExpected (acc : Byte × Byte) (s : State) : (setAcc acc s).curExpected = s.curExpected := rfl

@[simp] theorem setAcc_txShadow (acc : Byte × Byte) (s : State) : (setAcc acc s).txShadow = s.txShadow := rfl

@[simp] theorem setAcc_rxFifo (acc : Byte × Byte) (s : State) : (setAcc acc s).rxFifo = s.rxFifo := rfl

@[simp] theorem setAcc_err (acc : Byte × Byte) (s : State) : (setAcc acc s).err = s.err := rfl

@[simp] theorem setAcc_rxOvr (acc : Byte × Byte) (s : State) : (setAcc acc s).rxOvr = s.rxOvr := rfl

@[simp] theorem setAcc_monOvf (acc : Byte × Byte) (s : State) : (setAcc acc s).monOvf = s.monOvf := rfl

@[simp] theorem setAcc_monErr (acc : Byte × Byte) (s : State) : (setAcc acc s).monErr = s.monErr := rfl

@[simp] theorem setAcc_monState (acc : Byte × Byte) (s : State) : (setAcc acc s).monState = s.monState := rfl

@[simp] theorem setAcc_monFilter (acc : Byte × Byte) (s : State) : (setAcc acc s).monFilter = s.monFilter := rfl

@[simp] theorem setAcc_monStopReq (acc : Byte × Byte) (s : State) : (setAcc acc s).monStopReq = s.monStopReq := rfl

@[simp] theorem setAcc_monBuf (acc : Byte × Byte) (s : State) : (setAcc acc s).monBuf = s.monBuf := rfl

@[simp] theorem setAcc_monOvfPend (acc : Byte × Byte) (s : State) : (setAcc acc s).monOvfPend = s.monOvfPend := rfl

@[simp] theorem setAcc_mtmr (acc : Byte × Byte) (s : State) : (setAcc acc s).mtmr = s.mtmr := rfl

@[simp] theorem setAcc_wire (acc : Byte × Byte) (s : State) : (setAcc acc s).wire = s.wire := rfl

@[simp] theorem setAcc_reports (acc : Byte × Byte) (s : State) : (setAcc acc s).reports = s.reports := rfl

@[simp] theorem setAcc_trace (acc : Byte × Byte) (s : State) : (setAcc acc s).trace = s.trace := rfl

@[simp] theorem setAcc_devOps (acc : Byte × Byte) (s : State) : (setAcc acc s).devOps = s.devOps := rfl

@[simp] theorem setAcc_bus (acc : Byte × Byte) (s : State) : (setAcc acc s).bus = s.bus := rfl

@[simp] theorem setAcc_cfg (acc : Byte × Byte) (s : State) : (setAcc acc s).cfg = s.cfg := rfl

@[simp] theorem setAcc_inputs (acc : Byte × Byte) (s : State) : (setAcc acc s).inputs = s.inputs := rfl

@[simp] theorem setAcc_held (acc : Byte × Byte) (s : State) : (setAcc acc s).held = s.held := rfl

@[simp] theorem setAcc_openAnswer (acc : Byte × Byte) (s : State) : (setAcc acc s).openAnswer = s.openAnswer := rfl

@[simp] theorem setAcc_draws (acc : Byte × Byte) (s : State) : (setAcc acc s).draws = s.draws := rfl

/-! ### clearSticky -/

@[simp] theorem clearSticky_conn (s : State) : (clearSticky s).conn = s.conn := rfl

@[simp] theorem clearSticky_accHi (s : State) : (clearSticky s).accHi = s.accHi := rfl

@[simp] theorem clearSticky_accLo (s : State) : (clearSticky s).accLo = s.accLo := rfl

@[simp] theorem clearSticky_txbuf (s : State) : (clearSticky s).txbuf = s.txbuf := rfl

@[simp] theorem clearSticky_txLen (s : State) : (clearSticky s).txLen = s.txLen := rfl

@[simp] theorem clearSticky_rxbuf (s : State) : (clearSticky s).rxbuf = s.rxbuf := rfl

@[simp] theorem clearSticky_rxLen (s : State) : (clearSticky s).rxLen = s.rxLen := rfl

@[simp] theorem clearSticky_rxExpect (s : State) : (clearSticky s).rxExpect = s.rxExpect := rfl

@[simp] theorem clearSticky_phase (s : State) : (clearSticky s).phase = s.phase := rfl

@[simp] theorem clearSticky_tmr (s : State) : (clearSticky s).tmr = s.tmr := rfl

@[simp] theorem clearSticky_curTransfer (s : State) : (clearSticky s).curTransfer = s.curTransfer := rfl

@[simp] theorem clearSticky_curExpected (s : State) : (clearSticky s).curExpected = s.curExpected := rfl

@[simp] theorem clearSticky_txShadow (s : State) : (clearSticky s).txShadow = s.txShadow := rfl

@[simp] theorem clearSticky_rxFifo (s : State) : (clearSticky s).rxFifo = s.rxFifo := rfl

@[simp] theorem clearSticky_err (s : State) : (clearSticky s).err = s.err := rfl

@[simp] theorem clearSticky_rxOvr (s : State) : (clearSticky s).rxOvr = false := rfl

@[simp] theorem clearSticky_monOvf (s : State) : (clearSticky s).monOvf = false := rfl

@[simp] theorem clearSticky_monErr (s : State) : (clearSticky s).monErr = false := rfl

@[simp] theorem clearSticky_monState (s : State) : (clearSticky s).monState = s.monState := rfl

@[simp] theorem clearSticky_monFilter (s : State) : (clearSticky s).monFilter = s.monFilter := rfl

@[simp] theorem clearSticky_monStopReq (s : State) : (clearSticky s).monStopReq = s.monStopReq := rfl

@[simp] theorem clearSticky_monBuf (s : State) : (clearSticky s).monBuf = s.monBuf := rfl

@[simp] theorem clearSticky_monOvfPend (s : State) : (clearSticky s).monOvfPend = s.monOvfPend := rfl

@[simp] theorem clearSticky_mtmr (s : State) : (clearSticky s).mtmr = s.mtmr := rfl

@[simp] theorem clearSticky_wire (s : State) : (clearSticky s).wire = s.wire := rfl

@[simp] theorem clearSticky_reports (s : State) : (clearSticky s).reports = s.reports := rfl

@[simp] theorem clearSticky_trace (s : State) : (clearSticky s).trace = s.trace := rfl

@[simp] theorem clearSticky_devOps (s : State) : (clearSticky s).devOps = s.devOps := rfl

@[simp] theorem clearSticky_bus (s : State) : (clearSticky s).bus = s.bus := rfl

@[simp] theorem clearSticky_cfg (s : State) : (clearSticky s).cfg = s.cfg := rfl

@[simp] theorem clearSticky_inputs (s : State) : (clearSticky s).inputs = s.inputs := rfl

@[simp] theorem clearSticky_held (s : State) : (clearSticky s).held = s.held := rfl

@[simp] theorem clearSticky_openAnswer (s : State) : (clearSticky s).openAnswer = s.openAnswer := rfl

@[simp] theorem clearSticky_draws (s : State) : (clearSticky s).draws = s.draws := rfl

/-! ### closeDevice -/

@[simp] theorem closeDevice_conn (s : State) : (closeDevice s).conn = s.conn := by unfold closeDevice; split <;> rfl

@[simp] theorem closeDevice_accHi (s : State) : (closeDevice s).accHi = s.accHi := by unfold closeDevice; split <;> rfl

@[simp] theorem closeDevice_accLo (s : State) : (closeDevice s).accLo = s.accLo := by unfold closeDevice; split <;> rfl

@[simp] theorem closeDevice_txbuf (s : State) : (closeDevice s).txbuf = s.txbuf := by unfold closeDevice; split <;> rfl

@[simp] theorem closeDevice_txLen (s : State) : (closeDevice s).txLen = s.txLen := by unfold closeDevice; split <;> rfl

@[simp] theorem closeDevice_rxbuf (s : State) : (closeDevice s).rxbuf = s.rxbuf := by unfold closeDevice; split <;> rfl

@[simp] theorem closeDevice_rxLen (s : State) : (closeDevice s).rxLen = s.rxLen := by unfold closeDevice; split <;> rfl

@[simp] theorem closeDevice_rxExpect (s : State) : (closeDevice s).rxExpect = s.rxExpect := by unfold closeDevice; split <;> rfl

@[simp] theorem closeDevice_phase (s : State) : (closeDevice s).phase = s.phase := by unfold closeDevice; split <;> rfl

@[simp] theorem closeDevice_tmr (s : State) : (closeDevice s).tmr = s.tmr := by unfold closeDevice; split <;> rfl

@[simp] theorem closeDevice_curTransfer (s : State) : (closeDevice s).curTransfer = s.curTransfer := by unfold closeDevice; split <;> rfl

@[simp] theorem closeDevice_curExpected (s : State) : (closeDevice s).curExpected = s.curExpected := by unfold closeDevice; split <;> rfl

@[simp] theorem closeDevice_txShadow (s : State) : (closeDevice s).txShadow = s.txShadow := by unfold closeDevice; split <;> rfl

@[simp] theorem closeDevice_rxFifo (s : State) : (closeDevice s).rxFifo = s.rxFifo := by unfold closeDevice; split <;> rfl

@[simp] theorem closeDevice_err (s : State) : (closeDevice s).err = s.err := by unfold closeDevice; split <;> rfl

@[simp] theorem closeDevice_rxOvr (s : State) : (closeDevice s).rxOvr = s.rxOvr := by unfold closeDevice; split <;> rfl

@[simp] theorem closeDevice_monOvf (s : State) : (closeDevice s).monOvf = s.monOvf := by unfold closeDevice; split <;> rfl

@[simp] theorem closeDevice_monErr (s : State) : (closeDevice s).monErr = s.monErr := by unfold closeDevice; split <;> rfl

@[simp] theorem closeDevice_monState (s : State) : (closeDevice s).monState = s.monState := by unfold closeDevice; split <;> rfl

@[simp] theorem closeDevice_monFilter (s : State) : (closeDevice s).monFilter = s.monFilter := by unfold closeDevice; split <;> rfl

@[simp] theorem closeDevice_monStopReq (s : State) : (closeDevice s).monStopReq = s.monStopReq := by unfold closeDevice; split <;> rfl

@[simp] theorem closeDevice_monBuf (s : State) : (closeDevice s).monBuf = s.monBuf := by unfold closeDevice; split <;> rfl

@[simp] theorem closeDevice_monOvfPend (s : State) : (closeDevice s).monOvfPend = s.monOvfPend := by unfold closeDevice; split <;> rfl

@[simp] theorem closeDevice_mtmr (s : State) : (closeDevice s).mtmr = s.mtmr := by unfold closeDevice; split <;> rfl

@[simp] theorem closeDevice_wire (s : State) : (closeDevice s).wire = s.wire := by unfold closeDevice; split <;> rfl

@[simp] theorem closeDevice_reports (s : State) : (closeDevice s).reports = s.reports := by unfold closeDevice; split <;> rfl

@[simp] theorem closeDevice_trace (s : State) : (closeDevice s).trace = s.trace := by unfold closeDevice; split <;> rfl

@[simp] theorem closeDevice_devOps (s : State) : (closeDevice s).devOps = if isOpen s then s.devOps ++ [.close] else s.devOps := by unfold closeDevice; split <;> rfl

@[simp] theorem closeDevice_bus (s : State) : (closeDevice s).bus = s.bus := by unfold closeDevice; split <;> rfl

@[simp] theorem closeDevice_cfg (s : State) : (closeDevice s).cfg = s.cfg := by unfold closeDevice; split <;> rfl

@[simp] theorem closeDevice_inputs (s : State) : (closeDevice s).inputs = s.inputs := by unfold closeDevice; split <;> rfl

@[simp] theorem closeDevice_held (s : State) : (closeDevice s).held = s.held := by unfold closeDevice; split <;> rfl

@[simp] theorem closeDevice_openAnswer (s : State) : (closeDevice s).openAnswer = s.openAnswer := by unfold closeDevice; split <;> rfl

@[simp] theorem closeDevice_draws (s : State) : (closeDevice s).draws = s.draws := by unfold closeDevice; split <;> rfl

/-! ### startReceive -/

@[simp] theorem startReceive_conn (n : Half) (s : State) : (startReceive n s).conn = s.conn := rfl

@[simp] theorem startReceive_accHi (n : Half) (s : State) : (startReceive n s).accHi = s.accHi := rfl

@[simp] theorem startReceive_accLo (n : Half) (s : State) : (startReceive n s).accLo = s.accLo := rfl

@[simp] theorem startReceive_txbuf (n : Half) (s : State) : (startReceive n s).txbuf = s.txbuf := rfl

@[simp] theorem startReceive_txLen (n : Half) (s : State) : (startReceive n s).txLen = s.txLen := rfl

@[simp] theorem startReceive_rxbuf (n : Half) (s : State) : (startReceive n s).rxbuf = s.rxbuf := rfl

@[simp] theorem startReceive_rxLen (n : Half) (s : State) : (startReceive n s).rxLen = 0 := rfl

@[simp] theorem startReceive_rxExpect (n : Half) (s : State) : (startReceive n s).rxExpect = n := rfl

@[simp] theorem startReceive_phase (n : Half) (s : State) : (startReceive n s).phase = if n = 0 then .rSettle else .rFixed := rfl

@[simp] theorem startReceive_tmr (n : Half) (s : State) : (startReceive n s).tmr = 0 := rfl

@[simp] theorem startReceive_curTransfer (n : Half) (s : State) : (startReceive n s).curTransfer = s.curTransfer := rfl

@[simp] theorem startReceive_curExpected (n : Half) (s : State) : (startReceive n s).curExpected = s.curExpected := rfl

@[simp] theorem startReceive_txShadow (n : Half) (s : State) : (startReceive n s).txShadow = s.txShadow := rfl

@[simp] theorem startReceive_rxFifo (n : Half) (s : State) : (startReceive n s).rxFifo = s.rxFifo := rfl

@[simp] theorem startReceive_err (n : Half) (s : State) : (startReceive n s).err = s.err := rfl

@[simp] theorem startReceive_rxOvr (n : Half) (s : State) : (startReceive n s).rxOvr = s.rxOvr := rfl

@[simp] theorem startReceive_monOvf (n : Half) (s : State) : (startReceive n s).monOvf = s.monOvf := rfl

@[simp] theorem startReceive_monErr (n : Half) (s : State) : (startReceive n s).monErr = s.monErr := rfl

@[simp] theorem startReceive_monState (n : Half) (s : State) : (startReceive n s).monState = s.monState := rfl

@[simp] theorem startReceive_monFilter (n : Half) (s : State) : (startReceive n s).monFilter = s.monFilter := rfl

@[simp] theorem startReceive_monStopReq (n : Half) (s : State) : (startReceive n s).monStopReq = s.monStopReq := rfl

@[simp] theorem startReceive_monBuf (n : Half) (s : State) : (startReceive n s).monBuf = s.monBuf := rfl

@[simp] theorem startReceive_monOvfPend (n : Half) (s : State) : (startReceive n s).monOvfPend = s.monOvfPend := rfl

@[simp] theorem startReceive_mtmr (n : Half) (s : State) : (startReceive n s).mtmr = s.mtmr := rfl

@[simp] theorem startReceive_wire (n : Half) (s : State) : (startReceive n s).wire = s.wire := rfl

@[simp] theorem startReceive_reports (n : Half) (s : State) : (startReceive n s).reports = s.reports := rfl

@[simp] theorem startReceive_trace (n : Half) (s : State) : (startReceive n s).trace = s.trace := rfl

@[simp] theorem startReceive_devOps (n : Half) (s : State) : (startReceive n s).devOps = s.devOps := rfl

@[simp] theorem startReceive_bus (n : Half) (s : State) : (startReceive n s).bus = s.bus := rfl

@[simp] theorem startReceive_cfg (n : Half) (s : State) : (startReceive n s).cfg = s.cfg := rfl

@[simp] theorem startReceive_inputs (n : Half) (s : State) : (startReceive n s).inputs = s.inputs := rfl

@[simp] theorem startReceive_held (n : Half) (s : State) : (startReceive n s).held = s.held := rfl

@[simp] theorem startReceive_openAnswer (n : Half) (s : State) : (startReceive n s).openAnswer = s.openAnswer := rfl

@[simp] theorem startReceive_draws (n : Half) (s : State) : (startReceive n s).draws = s.draws := rfl

/-! ### writeOk -/

@[simp] theorem writeOk_conn (s : State) : (writeOk s).conn = s.conn := rfl

@[simp] theorem writeOk_accHi (s : State) : (writeOk s).accHi = s.accHi := rfl

@[simp] theorem writeOk_accLo (s : State) : (writeOk s).accLo = s.accLo := rfl

@[simp] theorem writeOk_txbuf (s : State) : (writeOk s).txbuf = s.txbuf := rfl

@[simp] theorem writeOk_txLen (s : State) : (writeOk s).txLen = s.txLen := rfl

@[simp] theorem writeOk_rxbuf (s : State) : (writeOk s).rxbuf = s.rxbuf := rfl

@[simp] theorem writeOk_rxLen (s : State) : (writeOk s).rxLen = s.rxLen := rfl

@[simp] theorem writeOk_rxExpect (s : State) : (writeOk s).rxExpect = s.rxExpect := rfl

@[simp] theorem writeOk_phase (s : State) : (writeOk s).phase = .sIfd := rfl

@[simp] theorem writeOk_tmr (s : State) : (writeOk s).tmr = 0 := rfl

@[simp] theorem writeOk_curTransfer (s : State) : (writeOk s).curTransfer = s.curTransfer := rfl

@[simp] theorem writeOk_curExpected (s : State) : (writeOk s).curExpected = s.curExpected := rfl

@[simp] theorem writeOk_txShadow (s : State) : (writeOk s).txShadow = s.txShadow := rfl

@[simp] theorem writeOk_rxFifo (s : State) : (writeOk s).rxFifo = s.rxFifo := rfl

@[simp] theorem writeOk_err (s : State) : (writeOk s).err = s.err := rfl

@[simp] theorem writeOk_rxOvr (s : State) : (writeOk s).rxOvr = s.rxOvr := rfl

@[simp] theorem writeOk_monOvf (s : State) : (writeOk s).monOvf = s.monOvf := rfl

@[simp] theorem writeOk_monErr (s : State) : (writeOk s).monErr = s.monErr := rfl

@[simp] theorem writeOk_monState (s : State) : (writeOk s).monState = s.monState := rfl

@[simp] theorem writeOk_monFilter (s : State) : (writeOk s).monFilter = s.monFilter := rfl

@[simp] theorem writeOk_monStopReq (s : State) : (writeOk s).monStopReq = s.monStopReq := rfl

@[simp] theorem writeOk_monBuf (s : State) : (writeOk s).monBuf = s.monBuf := rfl

@[simp] theorem writeOk_monOvfPend (s : State) : (writeOk s).monOvfPend = s.monOvfPend := rfl

@[simp] theorem writeOk_mtmr (s : State) : (writeOk s).mtmr = s.mtmr := rfl

@[simp] theorem writeOk_wire (s : State) : (writeOk s).wire = s.wire ++ s.txShadow := rfl

@[simp] theorem writeOk_reports (s : State) : (writeOk s).reports = s.reports := rfl

@[simp] theorem writeOk_trace (s : State) : (writeOk s).trace = s.trace := rfl

@[simp] theorem writeOk_devOps (s : State) : (writeOk s).devOps = s.devOps := rfl

@[simp] theorem writeOk_bus (s : State) : (writeOk s).bus = s.bus := rfl

@[simp] theorem writeOk_cfg (s : State) : (writeOk s).cfg = s.cfg := rfl

@[simp] theorem writeOk_inputs (s : State) : (writeOk s).inputs = s.inputs := rfl

@[simp] theorem writeOk_held (s : State) : (writeOk s).held = s.held := rfl

@[simp] theorem writeOk_openAnswer (s : State) : (writeOk s).openAnswer = s.openAnswer := rfl

@[simp] theorem writeOk_draws (s : State) : (writeOk s).draws = s.draws := rfl

/-! ### writeFail -/

@[simp] theorem writeFail_conn (k : Nat) (s : State) : (writeFail k s).conn = s.conn := rfl

@[simp] theorem writeFail_accHi (k : Nat) (s : State) : (writeFail k s).accHi = s.accHi := rfl

@[simp] theorem writeFail_accLo (k : Nat) (s : State) : (writeFail k s).accLo = s.accLo := rfl

@[simp] theorem writeFail_txbuf (k : Nat) (s : State) : (writeFail k s).txbuf = s.txbuf := rfl

@[simp] theorem writeFail_txLen (k : Nat) (s : State) : (writeFail k s).txLen = s.txLen := rfl

@[simp] theorem writeFail_rxbuf (k : Nat) (s : State) : (writeFail k s).rxbuf = s.rxbuf := rfl

@[simp] theorem writeFail_rxLen (k : Nat) (s : State) : (writeFail k s).rxLen = s.rxLen := rfl

@[simp] theorem writeFail_rxExpect (k : Nat) (s : State) : (writeFail k s).rxExpect = s.rxExpect := rfl

@[simp] theorem writeFail_phase (k : Nat) (s : State) : (writeFail k s).phase = .idle := rfl

@[simp] theorem writeFail_tmr (k : Nat) (s : State) : (writeFail k s).tmr = 0 := rfl

@[simp] theorem writeFail_curTransfer (k : Nat) (s : State) : (writeFail k s).curTransfer = false := rfl

@[simp] theorem writeFail_curExpected (k : Nat) (s : State) : (writeFail k s).curExpected = 0 := rfl

@[simp] theorem writeFail_txShadow (k : Nat) (s : State) : (writeFail k s).txShadow = [] := rfl

@[simp] theorem writeFail_rxFifo (k : Nat) (s : State) : (writeFail k s).rxFifo = s.rxFifo := rfl

@[simp] theorem writeFail_err (k : Nat) (s : State) : (writeFail k s).err = .writeError := rfl

@[simp] theorem writeFail_rxOvr (k : Nat) (s : State) : (writeFail k s).rxOvr = s.rxOvr := rfl

@[simp] theorem writeFail_monOvf (k : Nat) (s : State) : (writeFail k s).monOvf = s.monOvf := rfl

@[simp] theorem writeFail_monErr (k : Nat) (s : State) : (writeFail k s).monErr = s.monErr := rfl

@[simp] theorem writeFail_monState (k : Nat) (s : State) : (writeFail k s).monState = s.monState := rfl

@[simp] theorem writeFail_monFilter (k : Nat) (s : State) : (writeFail k s).monFilter = s.monFilter := rfl

@[simp] theorem writeFail_monStopReq (k : Nat) (s : State) : (writeFail k s).monStopReq = s.monStopReq := rfl

@[simp] theorem writeFail_monBuf (k : Nat) (s : State) : (writeFail k s).monBuf = s.monBuf := rfl

@[simp] theorem writeFail_monOvfPend (k : Nat) (s : State) : (writeFail k s).monOvfPend = s.monOvfPend := rfl

@[simp] theorem writeFail_mtmr (k : Nat) (s : State) : (writeFail k s).mtmr = s.mtmr := rfl

@[simp] theorem writeFail_wire (k : Nat) (s : State) : (writeFail k s).wire = s.wire ++ s.txShadow.take k := rfl

@[simp] theorem writeFail_reports (k : Nat) (s : State) : (writeFail k s).reports = s.reports := rfl

@[simp] theorem writeFail_trace (k : Nat) (s : State) : (writeFail k s).trace = s.trace := rfl

@[simp] theorem writeFail_devOps (k : Nat) (s : State) : (writeFail k s).devOps = s.devOps := rfl

@[simp] theorem writeFail_bus (k : Nat) (s : State) : (writeFail k s).bus = s.bus := rfl

@[simp] theorem writeFail_cfg (k : Nat) (s : State) : (writeFail k s).cfg = s.cfg := rfl

@[simp] theorem writeFail_inputs (k : Nat) (s : State) : (writeFail k s).inputs = s.inputs := rfl

@[simp] theorem writeFail_held (k : Nat) (s : State) : (writeFail k s).held = s.held := rfl

@[simp] theorem writeFail_openAnswer (k : Nat) (s : State) : (writeFail k s).openAnswer = s.openAnswer := rfl

@[simp] theorem writeFail_draws (k : Nat) (s : State) : (writeFail k s).draws = s.draws := rfl

/-! ### storeRx -/

@[simp] theorem storeRx_conn (b : Byte) (s : State) : (storeRx b s).conn = s.conn := rfl

@[simp] theorem storeRx_accHi (b : Byte) (s : State) : (storeRx b s).accHi = s.accHi := rfl

@[simp] theorem storeRx_accLo (b : Byte) (s : State) : (storeRx b s).accLo = s.accLo := rfl

@[simp] theorem storeRx_txbuf (b : Byte) (s : State) : (storeRx b s).txbuf = s.txbuf := rfl

@[simp] theorem storeRx_txLen (b : Byte) (s : State) : (storeRx b s).txLen = s.txLen := rfl

@[simp] theorem storeRx_rxbuf (b : Byte) (s : State) : (storeRx b s).rxbuf = s.rxbuf.write s.rxLen.toNat b := rfl

@[simp] theorem storeRx_rxLen (b : Byte) (s : State) : (storeRx b s).rxLen = s.rxLen + 1 := rfl

@[simp] theorem storeRx_rxExpect (b : Byte) (s : State) : (storeRx b s).rxExpect = s.rxExpect := rfl

@[simp] theorem storeRx_phase (b : Byte) (s : State) : (storeRx b s).phase = s.phase := rfl

@[simp] theorem storeRx_tmr (b : Byte) (s : State) : (storeRx b s).tmr = s.tmr := rfl

@[simp] theorem storeRx_curTransfer (b : Byte) (s : State) : (storeRx b s).curTransfer = s.curTransfer := rfl

@[simp] theorem storeRx_curExpected (b : Byte) (s : State) : (storeRx b s).curExpected = s.curExpected := rfl

@[simp] theorem storeRx_txShadow (b : Byte) (s : State) : (storeRx b s).txShadow = s.txShadow := rfl

@[simp] theorem storeRx_rxFifo (b : Byte) (s : State) : (storeRx b s).rxFifo = s.rxFifo := rfl

@[simp] theorem storeRx_err (b : Byte) (s : State) : (storeRx b s).err = s.err := rfl

@[simp] theorem storeRx_rxOvr (b : Byte) (s : State) : (storeRx b s).rxOvr = s.rxOvr := rfl

@[simp] theorem storeRx_monOvf (b : Byte) (s : State) : (storeRx b s).monOvf = s.monOvf := rfl

@[simp] theorem storeRx_monErr (b : Byte) (s : State) : (storeRx b s).monErr = s.monErr := rfl

@[simp] theorem storeRx_monState (b : Byte) (s : State) : (storeRx b s).monState = s.monState := rfl

@[simp] theorem storeRx_monFilter (b : Byte) (s : State) : (storeRx b s).monFilter = s.monFilter := rfl

@[simp] theorem storeRx_monStopReq (b : Byte) (s : State) : (storeRx b s).monStopReq = s.monStopReq := rfl

@[simp] theorem storeRx_monBuf (b : Byte) (s : State) : (storeRx b s).monBuf = s.monBuf := rfl

@[simp] theorem storeRx_monOvfPend (b : Byte) (s : State) : (storeRx b s).monOvfPend = s.monOvfPend := rfl

@[simp] theorem storeRx_mtmr (b : Byte) (s : State) : (storeRx b s).mtmr = s.mtmr := rfl

@[simp] theorem storeRx_wire (b : Byte) (s : State) : (storeRx b s).wire = s.wire := rfl

@[simp] theorem storeRx_reports (b : Byte) (s : State) : (storeRx b s).reports = s.reports := rfl

@[simp] theorem storeRx_trace (b : Byte) (s : State) : (storeRx b s).trace = s.trace := rfl

@[simp] theorem storeRx_devOps (b : Byte) (s : State) : (storeRx b s).devOps = s.devOps := rfl

@[simp] theorem storeRx_bus (b : Byte) (s : State) : (storeRx b s).bus = s.bus := rfl

@[simp] theorem storeRx_cfg (b : Byte) (s : State) : (storeRx b s).cfg = s.cfg := rfl

@[simp] theorem storeRx_inputs (b : Byte) (s : State) : (storeRx b s).inputs = s.inputs := rfl

@[simp] theorem storeRx_held (b : Byte) (s : State) : (storeRx b s).held = s.held := rfl

@[simp] theorem storeRx_openAnswer (b : Byte) (s : State) : (storeRx b s).openAnswer = s.openAnswer := rfl

@[simp] theorem storeRx_draws (b : Byte) (s : State) : (storeRx b s).draws = s.draws := rfl

/-! ### drainFree -/

@[simp] theorem drainFree_conn (s : State) : (drainFree s).conn = s.conn := rfl

@[simp] theorem drainFree_accHi (s : State) : (drainFree s).accHi = s.accHi := rfl

@[simp] theorem drainFree_accLo (s : State) : (drainFree s).accLo = s.accLo := rfl

@[simp] theorem drainFree_txbuf (s : State) : (drainFree s).txbuf = s.txbuf := rfl

@[simp] theorem drainFree_txLen (s : State) : (drainFree s).txLen = s.txLen := rfl

@[simp] theorem drainFree_rxbuf (s : State) : (drainFree s).rxbuf = s.rxbuf.writeAll 0 (s.rxFifo.take (min s.rxFifo.length Config.bufSize)) := rfl

@[simp] theorem drainFree_rxLen (s : State) : (drainFree s).rxLen = BitVec.ofNat 16 (min s.rxFifo.length Config.bufSize) := rfl

@[simp] theorem drainFree_rxExpect (s : State) : (drainFree s).rxExpect = s.rxExpect := rfl

@[simp] theorem drainFree_phase (s : State) : (drainFree s).phase = s.phase := rfl

@[simp] theorem drainFree_tmr (s : State) : (drainFree s).tmr = s.tmr := rfl

@[simp] theorem drainFree_curTransfer (s : State) : (drainFree s).curTransfer = s.curTransfer := rfl

@[simp] theorem drainFree_curExpected (s : State) : (drainFree s).curExpected = s.curExpected := rfl

@[simp] theorem drainFree_txShadow (s : State) : (drainFree s).txShadow = s.txShadow := rfl

@[simp] theorem drainFree_rxFifo (s : State) : (drainFree s).rxFifo = s.rxFifo.drop (min s.rxFifo.length Config.bufSize) := rfl

@[simp] theorem drainFree_err (s : State) : (drainFree s).err = s.err := rfl

@[simp] theorem drainFree_rxOvr (s : State) : (drainFree s).rxOvr = (s.rxOvr || !(s.rxFifo.drop (min s.rxFifo.length Config.bufSize)).isEmpty) := rfl

@[simp] theorem drainFree_monOvf (s : State) : (drainFree s).monOvf = s.monOvf := rfl

@[simp] theorem drainFree_monErr (s : State) : (drainFree s).monErr = s.monErr := rfl

@[simp] theorem drainFree_monState (s : State) : (drainFree s).monState = s.monState := rfl

@[simp] theorem drainFree_monFilter (s : State) : (drainFree s).monFilter = s.monFilter := rfl

@[simp] theorem drainFree_monStopReq (s : State) : (drainFree s).monStopReq = s.monStopReq := rfl

@[simp] theorem drainFree_monBuf (s : State) : (drainFree s).monBuf = s.monBuf := rfl

@[simp] theorem drainFree_monOvfPend (s : State) : (drainFree s).monOvfPend = s.monOvfPend := rfl

@[simp] theorem drainFree_mtmr (s : State) : (drainFree s).mtmr = s.mtmr := rfl

@[simp] theorem drainFree_wire (s : State) : (drainFree s).wire = s.wire := rfl

@[simp] theorem drainFree_reports (s : State) : (drainFree s).reports = s.reports := rfl

@[simp] theorem drainFree_trace (s : State) : (drainFree s).trace = s.trace := rfl

@[simp] theorem drainFree_devOps (s : State) : (drainFree s).devOps = s.devOps := rfl

@[simp] theorem drainFree_bus (s : State) : (drainFree s).bus = s.bus := rfl

@[simp] theorem drainFree_cfg (s : State) : (drainFree s).cfg = s.cfg := rfl

@[simp] theorem drainFree_inputs (s : State) : (drainFree s).inputs = s.inputs := rfl

@[simp] theorem drainFree_held (s : State) : (drainFree s).held = s.held := rfl

@[simp] theorem drainFree_openAnswer (s : State) : (drainFree s).openAnswer = s.openAnswer := rfl

@[simp] theorem drainFree_draws (s : State) : (drainFree s).draws = s.draws := rfl

/-! ### stopRun -/

@[simp] theorem stopRun_conn (s : State) : (stopRun s).conn = s.conn := rfl

@[simp] theorem stopRun_accHi (s : State) : (stopRun s).accHi = s.accHi := rfl

@[simp] theorem stopRun_accLo (s : State) : (stopRun s).accLo = s.accLo := rfl

@[simp] theorem stopRun_txbuf (s : State) : (stopRun s).txbuf = s.txbuf := rfl

@[simp] theorem stopRun_txLen (s : State) : (stopRun s).txLen = s.txLen := rfl

@[simp] theorem stopRun_rxbuf (s : State) : (stopRun s).rxbuf = s.rxbuf := rfl

@[simp] theorem stopRun_rxLen (s : State) : (stopRun s).rxLen = s.rxLen := rfl

@[simp] theorem stopRun_rxExpect (s : State) : (stopRun s).rxExpect = s.rxExpect := rfl

@[simp] theorem stopRun_phase (s : State) : (stopRun s).phase = s.phase := rfl

@[simp] theorem stopRun_tmr (s : State) : (stopRun s).tmr = s.tmr := rfl

@[simp] theorem stopRun_curTransfer (s : State) : (stopRun s).curTransfer = s.curTransfer := rfl

@[simp] theorem stopRun_curExpected (s : State) : (stopRun s).curExpected = s.curExpected := rfl

@[simp] theorem stopRun_txShadow (s : State) : (stopRun s).txShadow = s.txShadow := rfl

@[simp] theorem stopRun_rxFifo (s : State) : (stopRun s).rxFifo = s.rxFifo := rfl

@[simp] theorem stopRun_err (s : State) : (stopRun s).err = s.err := rfl

@[simp] theorem stopRun_rxOvr (s : State) : (stopRun s).rxOvr = s.rxOvr := rfl

@[simp] theorem stopRun_monOvf (s : State) : (stopRun s).monOvf = s.monOvf := rfl

@[simp] theorem stopRun_monErr (s : State) : (stopRun s).monErr = s.monErr := rfl

@[simp] theorem stopRun_monState (s : State) : (stopRun s).monState = .stopped := rfl

@[simp] theorem stopRun_monFilter (s : State) : (stopRun s).monFilter = s.monFilter := rfl

@[simp] theorem stopRun_monStopReq (s : State) : (stopRun s).monStopReq = false := rfl

@[simp] theorem stopRun_monBuf (s : State) : (stopRun s).monBuf = [] := rfl

@[simp] theorem stopRun_monOvfPend (s : State) : (stopRun s).monOvfPend = false := rfl

@[simp] theorem stopRun_mtmr (s : State) : (stopRun s).mtmr = 0 := rfl

@[simp] theorem stopRun_wire (s : State) : (stopRun s).wire = s.wire := rfl

@[simp] theorem stopRun_reports (s : State) : (stopRun s).reports = s.reports := rfl

@[simp] theorem stopRun_trace (s : State) : (stopRun s).trace = s.trace := rfl

@[simp] theorem stopRun_devOps (s : State) : (stopRun s).devOps = s.devOps := rfl

@[simp] theorem stopRun_bus (s : State) : (stopRun s).bus = s.bus := rfl

@[simp] theorem stopRun_cfg (s : State) : (stopRun s).cfg = s.cfg := rfl

@[simp] theorem stopRun_inputs (s : State) : (stopRun s).inputs = s.inputs := rfl

@[simp] theorem stopRun_held (s : State) : (stopRun s).held = s.held := rfl

@[simp] theorem stopRun_openAnswer (s : State) : (stopRun s).openAnswer = s.openAnswer := rfl

@[simp] theorem stopRun_draws (s : State) : (stopRun s).draws = s.draws := rfl

/-! ### clearBlock -/

@[simp] theorem clearBlock_conn (s : State) : (clearBlock s).conn = State.reset.conn := rfl

@[simp] theorem clearBlock_accHi (s : State) : (clearBlock s).accHi = State.reset.accHi := rfl

@[simp] theorem clearBlock_accLo (s : State) : (clearBlock s).accLo = State.reset.accLo := rfl

@[simp] theorem clearBlock_txbuf (s : State) : (clearBlock s).txbuf = State.reset.txbuf := rfl

@[simp] theorem clearBlock_txLen (s : State) : (clearBlock s).txLen = State.reset.txLen := rfl

@[simp] theorem clearBlock_rxbuf (s : State) : (clearBlock s).rxbuf = State.reset.rxbuf := rfl

@[simp] theorem clearBlock_rxLen (s : State) : (clearBlock s).rxLen = State.reset.rxLen := rfl

@[simp] theorem clearBlock_rxExpect (s : State) : (clearBlock s).rxExpect = State.reset.rxExpect := rfl

@[simp] theorem clearBlock_phase (s : State) : (clearBlock s).phase = State.reset.phase := rfl

@[simp] theorem clearBlock_tmr (s : State) : (clearBlock s).tmr = State.reset.tmr := rfl

@[simp] theorem clearBlock_curTransfer (s : State) : (clearBlock s).curTransfer = State.reset.curTransfer := rfl

@[simp] theorem clearBlock_curExpected (s : State) : (clearBlock s).curExpected = State.reset.curExpected := rfl

@[simp] theorem clearBlock_txShadow (s : State) : (clearBlock s).txShadow = State.reset.txShadow := rfl

@[simp] theorem clearBlock_rxFifo (s : State) : (clearBlock s).rxFifo = State.reset.rxFifo := rfl

@[simp] theorem clearBlock_err (s : State) : (clearBlock s).err = State.reset.err := rfl

@[simp] theorem clearBlock_rxOvr (s : State) : (clearBlock s).rxOvr = State.reset.rxOvr := rfl

@[simp] theorem clearBlock_monOvf (s : State) : (clearBlock s).monOvf = State.reset.monOvf := rfl

@[simp] theorem clearBlock_monErr (s : State) : (clearBlock s).monErr = State.reset.monErr := rfl

@[simp] theorem clearBlock_monState (s : State) : (clearBlock s).monState = State.reset.monState := rfl

@[simp] theorem clearBlock_monFilter (s : State) : (clearBlock s).monFilter = State.reset.monFilter := rfl

@[simp] theorem clearBlock_monStopReq (s : State) : (clearBlock s).monStopReq = State.reset.monStopReq := rfl

@[simp] theorem clearBlock_monBuf (s : State) : (clearBlock s).monBuf = State.reset.monBuf := rfl

@[simp] theorem clearBlock_monOvfPend (s : State) : (clearBlock s).monOvfPend = State.reset.monOvfPend := rfl

@[simp] theorem clearBlock_mtmr (s : State) : (clearBlock s).mtmr = State.reset.mtmr := rfl

@[simp] theorem clearBlock_wire (s : State) : (clearBlock s).wire = s.wire := rfl

@[simp] theorem clearBlock_reports (s : State) : (clearBlock s).reports = s.reports := rfl

@[simp] theorem clearBlock_trace (s : State) : (clearBlock s).trace = s.trace := rfl

@[simp] theorem clearBlock_devOps (s : State) : (clearBlock s).devOps = s.devOps := rfl

@[simp] theorem clearBlock_bus (s : State) : (clearBlock s).bus = s.bus := rfl

@[simp] theorem clearBlock_cfg (s : State) : (clearBlock s).cfg = s.cfg := rfl

@[simp] theorem clearBlock_inputs (s : State) : (clearBlock s).inputs = s.inputs := rfl

@[simp] theorem clearBlock_held (s : State) : (clearBlock s).held = s.held := rfl

@[simp] theorem clearBlock_openAnswer (s : State) : (clearBlock s).openAnswer = State.reset.openAnswer := rfl

@[simp] theorem clearBlock_draws (s : State) : (clearBlock s).draws = s.draws := rfl

end Sys2Proof.Laws
end

