-- ==== Sys2Proof/Laws/Memory.lean ====
section
/-! SUPPORT. The laws of a buffer: what an entry reads after a write, that every write keeps the canonical form, that the
form makes equal contents equal data, and what using a run of entries answers. -/

namespace Sys2Proof.Laws

open Sys2Proof.Machine

/-! ### One entry -/

theorem read_insert (m : Memory) (a x : Nat) (b : Byte) :
    (Memory.insert a b m).read x = if x = a then some b else m.read x := by
  induction m with
  | nil => simp only [Memory.insert, Memory.read]
  | cons c m ih =>
    obtain ⟨y, d⟩ := c
    simp only [Memory.insert]
    split
    · simp only [Memory.read]
    · split
      · subst y
        simp only [Memory.read]
        split <;> rfl
      · simp only [Memory.read, ih]
        split
        · subst x; rw [if_neg (by omega)]
        · rfl

theorem read_write (m : Memory) (a x : Nat) (b : Byte) :
    (m.write a b).read x = if x = a ∧ a < Config.bufSize then some b else m.read x := by
  unfold Memory.write
  split
  · rw [read_insert]; simp [*]
  · simp [*]

theorem read_write_same (m : Memory) (a : Nat) (b : Byte) (h : a < Config.bufSize) : (m.write a b).read a = some b := by
  simp [read_write, h]

theorem read_write_other (m : Memory) (a x : Nat) (b : Byte) (h : x ≠ a) : (m.write a b).read x = m.read x := by
  simp [read_write, h]

/-! ### A run of entries -/

theorem read_writeAll_below (bs : List Byte) : ∀ (m : Memory) (a x : Nat), x < a → (m.writeAll a bs).read x = m.read x := by
  induction bs with
  | nil => intros; rfl
  | cons b bs ih =>
    intro m a x h
    rw [Memory.writeAll, ih _ _ _ (by omega), read_write_other _ _ _ _ (by omega)]

theorem read_writeAll_above (bs : List Byte) :
    ∀ (m : Memory) (a x : Nat), a + bs.length ≤ x → (m.writeAll a bs).read x = m.read x := by
  induction bs with
  | nil => intros; rfl
  | cons b bs ih =>
    intro m a x h
    simp only [List.length_cons] at h
    rw [Memory.writeAll, ih _ _ _ (by omega), read_write_other _ _ _ _ (by omega)]

theorem read_writeAll_inside (bs : List Byte) :
    ∀ (m : Memory) (a i : Nat), i < bs.length → a + bs.length ≤ Config.bufSize →
      (m.writeAll a bs).read (a + i) = bs[i]? := by
  induction bs with
  | nil => intro _ _ i h; exact absurd h (Nat.not_lt_zero i)
  | cons b bs ih =>
    intro m a i hi ha
    simp only [List.length_cons] at hi ha
    cases i with
    | zero =>
      rw [Memory.writeAll, read_writeAll_below _ _ _ _ (by omega)]
      exact read_write_same m a b (by omega)
    | succ i =>
      rw [Memory.writeAll, show a + (i + 1) = (a + 1) + i by omega, ih _ _ _ (by omega) (by omega)]
      rfl

theorem writeAll_append (bs cs : List Byte) :
    ∀ (m : Memory) (a : Nat), m.writeAll a (bs ++ cs) = (m.writeAll a bs).writeAll (a + bs.length) cs := by
  induction bs with
  | nil => intros; rfl
  | cons b bs ih =>
    intro m a
    rw [List.cons_append, Memory.writeAll, Memory.writeAll, ih, List.length_cons, Nat.add_assoc, Nat.add_comm 1]

/-! ### The canonical form -/

theorem risingFrom_mono (m : Memory) : ∀ lo lo', lo' ≤ lo → Memory.risingFrom lo m = true → Memory.risingFrom lo' m = true := by
  cases m with
  | nil => intros; rfl
  | cons c m =>
    obtain ⟨x, b⟩ := c
    intro lo lo' h h'
    simp only [Memory.risingFrom, Bool.and_eq_true, decide_eq_true_eq] at h' ⊢
    exact ⟨by omega, h'.2⟩

theorem risingFrom_insert (m : Memory) (a : Nat) (b : Byte) :
    ∀ lo, lo ≤ a → Memory.risingFrom lo m = true → Memory.risingFrom lo (Memory.insert a b m) = true := by
  induction m with
  | nil => intro lo h _; simp [Memory.insert, Memory.risingFrom, h]
  | cons c m ih =>
    obtain ⟨x, d⟩ := c
    intro lo h h'
    simp only [Memory.risingFrom, Bool.and_eq_true, decide_eq_true_eq] at h'
    simp only [Memory.insert]
    split
    · simp only [Memory.risingFrom, Bool.and_eq_true, decide_eq_true_eq]
      exact ⟨h, by omega, h'.2⟩
    · split
      · subst x
        simp only [Memory.risingFrom, Bool.and_eq_true, decide_eq_true_eq]
        exact h'
      · simp only [Memory.risingFrom, Bool.and_eq_true, decide_eq_true_eq]
        exact ⟨h'.1, ih _ (by omega) h'.2⟩

theorem all_insert (m : Memory) (a : Nat) (b : Byte) (h : a < Config.bufSize)
    (hm : (m.all fun c => c.1 < Config.bufSize) = true) :
    ((Memory.insert a b m).all fun c => c.1 < Config.bufSize) = true := by
  induction m with
  | nil => simp [Memory.insert, h]
  | cons c m ih =>
    obtain ⟨x, d⟩ := c
    simp only [List.all_cons, Bool.and_eq_true] at hm
    simp only [Memory.insert]
    split
    · simp only [List.all_cons, Bool.and_eq_true]
      exact ⟨decide_eq_true h, hm⟩
    · split
      · simp only [List.all_cons, Bool.and_eq_true]
        exact ⟨decide_eq_true h, hm.2⟩
      · simp only [List.all_cons, Bool.and_eq_true]
        exact ⟨hm.1, ih hm.2⟩

theorem write_wf (m : Memory) (a : Nat) (b : Byte) (h : m.wf = true) : (m.write a b).wf = true := by
  unfold Memory.write
  split
  · simp only [Memory.wf, Bool.and_eq_true] at h ⊢
    exact ⟨risingFrom_insert m a b 0 (Nat.zero_le a) h.1, all_insert m a b ‹_› h.2⟩
  · exact h

theorem writeAll_wf (bs : List Byte) : ∀ (m : Memory) (a : Nat), m.wf = true → (m.writeAll a bs).wf = true := by
  induction bs with
  | nil => intro m a h; exact h
  | cons b bs ih => intro m a h; exact ih _ _ (write_wf m a b h)

theorem read_below_rising (m : Memory) : ∀ lo x, Memory.risingFrom lo m = true → x < lo → m.read x = none := by
  induction m with
  | nil => intros; rfl
  | cons c m ih =>
    obtain ⟨y, d⟩ := c
    intro lo x h hx
    simp only [Memory.risingFrom, Bool.and_eq_true, decide_eq_true_eq] at h
    rw [Memory.read, if_neg (by omega)]
    exact ih _ _ h.2 (by omega)

/-- Equal contents are equal data. -/
theorem memory_ext (m : Memory) : ∀ (m' : Memory) (lo : Nat), Memory.risingFrom lo m = true →
    Memory.risingFrom lo m' = true → (∀ x, m.read x = m'.read x) → m = m' := by
  induction m with
  | nil =>
    intro m' lo _ h' he
    cases m' with
    | nil => rfl
    | cons c m' =>
      have := he c.1
      simp [Memory.read] at this
  | cons c m ih =>
    obtain ⟨x, b⟩ := c
    intro m' lo h h' he
    cases m' with
    | nil =>
      have := he x
      simp [Memory.read] at this
    | cons c' m' =>
      obtain ⟨y, d⟩ := c'
      simp only [Memory.risingFrom, Bool.and_eq_true, decide_eq_true_eq] at h h'
      have hxy : x = y := by
        rcases Nat.lt_trichotomy x y with hlt | heq | hgt
        · have := he x
          rw [Memory.read, if_pos rfl, Memory.read, if_neg (by omega), read_below_rising m' _ x h'.2 (by omega)] at this
          cases this
        · exact heq
        · have := he y
          rw [Memory.read, if_neg (by omega), Memory.read, if_pos rfl, read_below_rising m _ y h.2 (by omega)] at this
          cases this
      subst hxy
      have hbd := he x
      simp only [Memory.read, if_true, Option.some.injEq] at hbd
      subst hbd
      have htail : m = m' := by
        refine ih m' (x + 1) h.2 h'.2 fun z => ?_
        by_cases hz : z = x
        · subst hz
          rw [read_below_rising m _ z h.2 (by omega), read_below_rising m' _ z h'.2 (by omega)]
        · have := he z
          simpa only [Memory.read, if_neg hz] using this
      rw [htail]

/-! ### Using entries -/

@[simp] theorem useEntry_some (b : Byte) (n : Nat) : useEntry (some b) n = (b, n) := rfl

theorem useEntries_length (m : Memory) : ∀ k a n, (useEntries m a k n).1.length = k := by
  intro k
  induction k with
  | zero => intros; rfl
  | succ k ih => intro a n; simp [useEntries, ih]

/-- A written entry is used as it stands. -/
theorem useEntries_get (m : Memory) : ∀ (k a n i : Nat) (b : Byte), i < k → m.read (a + i) = some b →
    (useEntries m a k n).1[i]? = some b := by
  intro k
  induction k with
  | zero => intro _ _ i _ h; exact absurd h (Nat.not_lt_zero i)
  | succ k ih =>
    intro a n i b hi h
    cases i with
    | zero => rw [Nat.add_zero] at h; simp [useEntries, h]
    | succ i =>
      simp only [useEntries, List.getElem?_cons_succ]
      exact ih _ _ _ _ (by omega) (by rw [← h]; congr 1; omega)

/-- Entries that are all written are used without a draw. -/
theorem useEntries_written (m : Memory) : ∀ (bs : List Byte) (a n : Nat),
    (∀ i, i < bs.length → m.read (a + i) = bs[i]?) → useEntries m a bs.length n = (bs, n) := by
  intro bs
  induction bs with
  | nil => intros; rfl
  | cons b bs ih =>
    intro a n h
    have h0 := h 0 (by simp)
    simp only [Nat.add_zero, List.getElem?_cons_zero] at h0
    have ht := ih (a + 1) n fun i hi => by
      have := h (i + 1) (by simpa using hi)
      rw [← Nat.add_assoc, Nat.add_right_comm] at this
      simpa using this
    simp [useEntries, h0, ht]

theorem useEntries_append (m : Memory) : ∀ (j k a n : Nat),
    useEntries m a (j + k) n =
      ((useEntries m a j n).1 ++ (useEntries m (a + j) k (useEntries m a j n).2).1,
        (useEntries m (a + j) k (useEntries m a j n).2).2) := by
  intro j
  induction j with
  | zero => intro k a n; simp [useEntries]
  | succ j ih =>
    intro k a n
    rw [Nat.add_right_comm, useEntries]
    simp only [ih, useEntries, List.cons_append]
    rw [show a + (j + 1) = a + 1 + j by omega]

/-- The written entries below `k`, as a list. -/
theorem exists_entries (m : Memory) (k : Nat) (h : ∀ i, i < k → (m.read i).isSome = true) :
    ∃ bs : List Byte, bs.length = k ∧ ∀ i, i < k → m.read i = bs[i]? := by
  refine ⟨(useEntries m 0 k 0).1, useEntries_length m k 0 0, fun i hi => ?_⟩
  obtain ⟨b, hb⟩ := Option.isSome_iff_exists.mp (h i hi)
  rw [hb, useEntries_get m k 0 0 i b hi (by simpa using hb)]

end Sys2Proof.Laws
end

