-- ==== Sys2Proof/Laws/Quiesce.lean ====
section
/-! SUPPORT. What the shared loops and endings can do: the byte-taking loops and quiescence (43_control.md R244), ending a
receive, one monitor byte, and the acceptance checks. Later proofs cite these and do not unfold the loops. -/

namespace Sys2Proof.Laws

open Sys2Proof.Machine

/-! ### Acceptance checks -/

theorem accepting_pass {checks : List (Bool × ErrCode)} (f : State → State) (s : State)
    (h : firstError checks = none) : accepting checks f s = .next (f s) := by
  rw [accepting, h]

theorem accepting_fail {checks : List (Bool × ErrCode)} {e : ErrCode} (f : State → State) (s : State)
    (h : firstError checks = some e) : accepting checks f s = .next (setErr e s) := by
  rw [accepting, h]; rfl

/-- The two things a command with checks can do. -/
theorem accepting_cases (checks : List (Bool × ErrCode)) (f : State → State) (s : State) :
    (∃ e, firstError checks = some e ∧ accepting checks f s = .next (setErr e s)) ∨
    (firstError checks = none ∧ accepting checks f s = .next (f s)) := by
  cases h : firstError checks with
  | none => exact .inr ⟨rfl, accepting_pass f s h⟩
  | some e => exact .inl ⟨e, rfl, accepting_fail f s h⟩

@[simp] theorem busy_eq (s : State) : busy s = true ↔ s.phase ≠ .idle := by simp [busy]
@[simp] theorem isOpen_eq (s : State) : isOpen s = true ↔ s.conn = .opened := by simp [isOpen]
@[simp] theorem monRunning_eq (s : State) : monRunning s = true ↔ s.monState = .running := by simp [monRunning]
@[simp] theorem readPending_eq (s : State) : readPending s = true ↔ s.phase = .rFixed ∨ s.phase = .rSettle := by
  simp [readPending]

theorem conn_not_opened {c : Conn} : c ≠ .opened ↔ c = .closed := by cases c <;> simp

/-! ### Ending a receive -/

/-- A receive that ends changes only the trace and the draws, and then completes (R198). -/
theorem finishRx_eq (e : ErrCode) (s : State) :
    finishRx e s = complete e { s with trace := (traceReceive s).trace, draws := (traceReceive s).draws } := by
  unfold finishRx traceReceive
  split
  · unfold traceIf; split <;> rfl
  · rfl

/-- A receive whose entries are all written ends with them as its trace, and no draw (R198, R246). -/
theorem finishRx_written (e : ErrCode) (s : State) (bs : List Byte) (hl : bs.length = s.rxLen.toNat)
    (h : ∀ i, i < s.rxLen.toNat → s.rxbuf.read i = bs[i]?) :
    finishRx e s = complete e
      { s with trace := s.trace ++ if s.cfg.verbose = true ∧ s.rxLen ≠ 0 then [.rx bs] else [] } := by
  have hu : rxFrame s = (bs, s.draws) := by
    unfold rxFrame
    rw [← hl]
    exact useEntries_written s.rxbuf bs 0 s.draws fun i hi => by rw [Nat.zero_add]; exact h i (by omega)
  unfold finishRx traceReceive
  by_cases hv : s.cfg.verbose = true ∧ s.rxLen ≠ 0
  · rw [if_pos hv, if_pos (by simpa using hv), hu, traceIf, if_pos hv.1]
  · rw [if_neg hv, if_neg (by simpa using hv), List.append_nil]

/-! ### The transport's loop (R190) -/

/-- The loop takes as many bytes as there are, up to the expected count, into the entries from `rx_len` on. -/
theorem takeFixed_eq (bs : List Byte) : ∀ s : State,
    takeFixed bs s =
      { s with
        rxbuf := s.rxbuf.writeAll s.rxLen.toNat (bs.take (s.rxExpect.toNat - s.rxLen.toNat)),
        rxLen := s.rxLen + BitVec.ofNat 16 (min bs.length (s.rxExpect.toNat - s.rxLen.toNat)),
        rxFifo := bs.drop (s.rxExpect.toNat - s.rxLen.toNat) } := by
  induction bs with
  | nil => intro s; simp [takeFixed, Memory.writeAll]
  | cons b bs ih =>
    intro s
    unfold takeFixed
    split
    · rename_i h
      have hlt : s.rxLen.toNat < s.rxExpect.toNat := h
      have hb := s.rxExpect.isLt
      have h1 : (s.rxLen + 1).toNat = s.rxLen.toNat + 1 := by
        rw [BitVec.toNat_add]; exact Nat.mod_eq_of_lt (by simp; omega)
      obtain ⟨d, hd⟩ : ∃ d, s.rxExpect.toNat - s.rxLen.toNat = d + 1 := ⟨s.rxExpect.toNat - s.rxLen.toNat - 1, by omega⟩
      have hd' : s.rxExpect.toNat - (s.rxLen.toNat + 1) = d := by omega
      rw [ih]
      simp only [storeRx_rxbuf, storeRx_rxLen, storeRx_rxExpect, h1, hd, hd', List.take_succ_cons, List.drop_succ_cons,
        Memory.writeAll, List.length_cons]
      unfold storeRx
      have hm : min (bs.length + 1) (d + 1) = min bs.length d + 1 := by omega
      rw [hm]
      congr 1
      rw [BitVec.add_assoc]
      congr 1
      rw [Nat.add_comm, BitVec.ofNat_add]
      rfl
    · rename_i h
      have hle : s.rxExpect.toNat - s.rxLen.toNat = 0 := by
        have : ¬ s.rxLen.toNat < s.rxExpect.toNat := h
        omega
      simp [hle, Memory.writeAll]

/-- No fixed-length receive, nothing taken. -/
theorem quiesceTransport_of_ne (s : State) (h : s.phase ≠ .rFixed) : quiesceTransport s = s := by
  rw [quiesceTransport, if_neg h]

/-- A fixed-length receive that waits for more bytes than there are takes them all and goes on (R190). -/
theorem quiesceTransport_short (s : State) (hp : s.phase = .rFixed)
    (h : s.rxFifo.length < s.rxExpect.toNat - s.rxLen.toNat) :
    quiesceTransport s =
      { s with
        rxbuf := s.rxbuf.writeAll s.rxLen.toNat s.rxFifo,
        rxLen := s.rxLen + BitVec.ofNat 16 s.rxFifo.length,
        rxFifo := [] } := by
  have hb := s.rxExpect.isLt
  have hm : min s.rxFifo.length (s.rxExpect.toNat - s.rxLen.toNat) = s.rxFifo.length := by omega
  rw [quiesceTransport, if_pos hp, takeFixed_eq, hm, List.take_of_length_le (by omega), List.drop_eq_nil_of_le (by omega)]
  rw [if_neg]
  intro he
  have := congrArg BitVec.toNat he
  simp only [BitVec.toNat_add, BitVec.toNat_ofNat] at this
  omega

/-- A fixed-length receive with enough bytes waiting takes exactly the count and ends with NONE (R190). -/
theorem quiesceTransport_full (s : State) (hp : s.phase = .rFixed) (hle : s.rxLen.toNat ≤ s.rxExpect.toNat)
    (h : s.rxExpect.toNat - s.rxLen.toNat ≤ s.rxFifo.length) :
    quiesceTransport s =
      finishRx .none
        { s with
          rxbuf := s.rxbuf.writeAll s.rxLen.toNat (s.rxFifo.take (s.rxExpect.toNat - s.rxLen.toNat)),
          rxLen := s.rxExpect,
          rxFifo := s.rxFifo.drop (s.rxExpect.toNat - s.rxLen.toNat) } := by
  have hb := s.rxExpect.isLt
  have hm : min s.rxFifo.length (s.rxExpect.toNat - s.rxLen.toNat) = s.rxExpect.toNat - s.rxLen.toNat := by omega
  have hl : s.rxLen + BitVec.ofNat 16 (s.rxExpect.toNat - s.rxLen.toNat) = s.rxExpect := by
    apply BitVec.eq_of_toNat_eq
    simp only [BitVec.toNat_add, BitVec.toNat_ofNat]
    omega
  rw [quiesceTransport, if_pos hp, takeFixed_eq, hm, hl, if_pos rfl]

/-- Past its count (no reachable state) a fixed-length receive takes nothing. -/
theorem quiesceTransport_past (s : State) (hp : s.phase = .rFixed) (h : s.rxExpect.toNat < s.rxLen.toNat) :
    quiesceTransport s = s := by
  have h0 : s.rxExpect.toNat - s.rxLen.toNat = 0 := by omega
  rw [quiesceTransport, if_pos hp, takeFixed_eq, h0]
  simp only [List.take_zero, List.drop_zero, Nat.min_zero, Memory.writeAll, BitVec.add_zero]
  rw [if_neg]
  intro he
  have := congrArg BitVec.toNat he
  omega

/-! ### The monitor's loop (R216) -/

/-- What the monitor's read attempts may change: its own state and `rx_fifo` (R230). -/
abbrev MonitorChanges (s t : State) : Prop :=
  t = { s with
    monState := t.monState, monStopReq := t.monStopReq, monBuf := t.monBuf, monOvfPend := t.monOvfPend, mtmr := t.mtmr,
    rxFifo := t.rxFifo }

theorem monByte_stop (b : Byte) (s : State) (h : s.monStopReq = true) : monByte b s = stopRun s := by
  by_cases hb : s.monBuf.length < s.cfg.monBufMax <;> simp [monByte, nextAttempt, hb, h, stopRun]

theorem monByte_go (b : Byte) (s : State) (h : s.monStopReq = false) :
    monByte b s =
      { s with
        mtmr := 0,
        monBuf := if s.monBuf.length < s.cfg.monBufMax then s.monBuf ++ [b] else s.monBuf,
        monOvfPend := if s.monBuf.length < s.cfg.monBufMax then s.monOvfPend else true } := by
  by_cases hb : s.monBuf.length < s.cfg.monBufMax <;> simp [monByte, nextAttempt, hb, h]

theorem monByte_changes (b : Byte) (s : State) : MonitorChanges s (monByte b s) := by
  cases h : s.monStopReq with
  | true => rw [monByte_stop b s h]; rfl
  | false => rw [monByte_go b s h]

theorem takeMonitor_changes (bs : List Byte) : ∀ s : State, MonitorChanges s (takeMonitor bs s) := by
  induction bs with
  | nil => intro s; rfl
  | cons b bs ih =>
    intro s
    unfold takeMonitor
    split
    · have h1 := ih (monByte b s)
      have h2 := monByte_changes b s
      unfold MonitorChanges at h1 h2 ⊢
      rw [h1]
      simp only
      rw [h2]
    · rfl

theorem quiesceMonitor_changes (s : State) : MonitorChanges s (quiesceMonitor s) := by
  unfold quiesceMonitor
  split
  · exact takeMonitor_changes _ s
  · rfl

/-- The loop of a run with no stop requested takes every byte: those past MON_BUF_MAX only mark the frame (R216, R220). -/
theorem takeMonitor_go (bs : List Byte) : ∀ s : State, s.monState = .running → s.monStopReq = false →
    takeMonitor bs s =
      { s with
        rxFifo := [], mtmr := if bs = [] then s.mtmr else 0,
        monBuf := s.monBuf ++ bs.take (s.cfg.monBufMax - s.monBuf.length),
        monOvfPend := s.monOvfPend || decide (s.cfg.monBufMax - s.monBuf.length < bs.length) } := by
  induction bs with
  | nil => intro s _ _; simp [takeMonitor]
  | cons b bs ih =>
    intro s hr hq
    have hcons : (b :: bs).take (s.cfg.monBufMax - s.monBuf.length) =
        if s.monBuf.length < s.cfg.monBufMax then b :: bs.take (s.cfg.monBufMax - (s.monBuf.length + 1)) else [] := by
      split
      · rename_i h
        obtain ⟨d, hd⟩ : ∃ d, s.cfg.monBufMax - s.monBuf.length = d + 1 :=
          ⟨s.cfg.monBufMax - s.monBuf.length - 1, by omega⟩
        rw [hd, List.take_succ_cons, show s.cfg.monBufMax - (s.monBuf.length + 1) = d by omega]
      · rename_i h
        rw [show s.cfg.monBufMax - s.monBuf.length = 0 by omega, List.take_zero]
    unfold takeMonitor
    rw [if_pos (by simpa using hr), monByte_go b s hq]
    refine (ih _ (by exact hr) (by exact hq)).trans ?_
    rw [hcons]
    by_cases hl : s.monBuf.length < s.cfg.monBufMax
    · have h1 : (s.cfg.monBufMax - (s.monBuf.length + 1) < bs.length) =
          (s.cfg.monBufMax - s.monBuf.length < bs.length + 1) := propext (by omega)
      simp [hl, h1]
    · have h0 : s.cfg.monBufMax - s.monBuf.length = 0 := by omega
      simp [hl, h0]

/-- With a stop requested the first byte ends the run, and the rest stay (R214, R216). -/
theorem takeMonitor_stop (b : Byte) (l : List Byte) (s : State) (hr : s.monState = .running) (hq : s.monStopReq = true) :
    takeMonitor (b :: l) s = { stopRun s with rxFifo := l } := by
  unfold takeMonitor
  rw [if_pos (by simpa using hr), monByte_stop b s hq]
  cases l with
  | nil => rfl
  | cons c l => unfold takeMonitor; rw [if_neg (by simp [stopRun, monRunning])]

/-- No run, nothing taken. -/
theorem quiesceMonitor_of_ne (s : State) (h : s.monState ≠ .running) : quiesceMonitor s = s := by
  rw [quiesceMonitor, if_neg (by simpa using h)]

theorem quiesceMonitor_of_empty (s : State) (h : s.rxFifo = []) : quiesceMonitor s = s := by
  unfold quiesceMonitor
  split
  · rw [h, takeMonitor, ← h]
  · rfl

/-- A monitor that still runs after its loop has taken every byte. -/
theorem takeMonitor_running (bs : List Byte) : ∀ s : State, (takeMonitor bs s).monState = .running →
    (takeMonitor bs s).rxFifo = [] := by
  induction bs with
  | nil => intros; rfl
  | cons b bs ih =>
    intro s h
    unfold takeMonitor at h ⊢
    split
    · rename_i hr
      rw [if_pos hr] at h
      exact ih _ h
    · rename_i hr
      rw [if_neg hr] at h
      exact absurd h (by simpa using hr)

theorem quiesceMonitor_running (s : State) (h : (quiesceMonitor s).monState = .running) :
    (quiesceMonitor s).rxFifo = [] := by
  unfold quiesceMonitor at h ⊢
  split
  · rename_i hr
    rw [if_pos hr] at h
    exact takeMonitor_running _ s h
  · rename_i hr
    rw [if_neg hr] at h
    exact absurd h (by simpa using hr)

/-! ### Quiescence -/

/-- The block is quiet: no pending read has a byte to take. -/
abbrev Quiet (s : State) : Prop :=
  (s.phase = .rFixed → s.rxLen ≠ s.rxExpect ∧ s.rxFifo = []) ∧ (s.monState = .running → s.rxFifo = [])

/-- Quiescence changes nothing in a quiet state (R244). -/
theorem quiesce_of_quiet (s : State) (h : Quiet s) : quiesce s = s := by
  have ht : quiesceTransport s = s := by
    by_cases hp : s.phase = .rFixed
    · obtain ⟨hne, hf⟩ := h.1 hp
      rw [quiesceTransport, if_pos hp, hf, takeFixed, ← hf]
      exact if_neg hne
    · exact quiesceTransport_of_ne s hp
  rw [quiesce, ht]
  by_cases hr : s.monState = .running
  · exact quiesceMonitor_of_empty s (h.2 hr)
  · exact quiesceMonitor_of_ne s hr

theorem quiesce_of_no_read (s : State) (hp : s.phase ≠ .rFixed) (hm : s.monState ≠ .running) : quiesce s = s :=
  quiesce_of_quiet s ⟨fun h => absurd h hp, fun h => absurd h hm⟩

/-! ### What quiescence leaves alone -/

/-- What the transport's loop may change (R190, R198). -/
abbrev TransportChanges (s t : State) : Prop :=
  t = { s with
    rxbuf := t.rxbuf, rxLen := t.rxLen, rxFifo := t.rxFifo, err := t.err, phase := t.phase, tmr := t.tmr,
    curTransfer := t.curTransfer, curExpected := t.curExpected, txShadow := t.txShadow, trace := t.trace,
    draws := t.draws }

theorem finishRx_changes (e : ErrCode) (s : State) : TransportChanges s (finishRx e s) := by rw [finishRx_eq]; rfl

theorem quiesceTransport_changes (s : State) : TransportChanges s (quiesceTransport s) := by
  unfold quiesceTransport
  split
  · rw [takeFixed_eq]
    simp only
    split
    · rw [finishRx_eq]; rfl
    · rfl
  · rfl

/-- What quiescence may change. -/
abbrev QuiesceChanges (s t : State) : Prop :=
  t = { s with
    rxbuf := t.rxbuf, rxLen := t.rxLen, rxFifo := t.rxFifo, err := t.err, phase := t.phase, tmr := t.tmr,
    curTransfer := t.curTransfer, curExpected := t.curExpected, txShadow := t.txShadow, trace := t.trace,
    draws := t.draws, monState := t.monState, monStopReq := t.monStopReq, monBuf := t.monBuf,
    monOvfPend := t.monOvfPend, mtmr := t.mtmr }

theorem quiesce_changes (s : State) : QuiesceChanges s (quiesce s) := by
  have h1 := quiesceTransport_changes s
  have h2 := quiesceMonitor_changes (quiesceTransport s)
  unfold TransportChanges MonitorChanges QuiesceChanges at *
  unfold quiesce
  rw [h2]
  simp only
  rw [h1]

@[simp] theorem quiesce_conn (s : State) : (quiesce s).conn = s.conn := by rw [quiesce_changes s]
@[simp] theorem quiesce_accHi (s : State) : (quiesce s).accHi = s.accHi := by rw [quiesce_changes s]
@[simp] theorem quiesce_accLo (s : State) : (quiesce s).accLo = s.accLo := by rw [quiesce_changes s]
@[simp] theorem quiesce_txbuf (s : State) : (quiesce s).txbuf = s.txbuf := by rw [quiesce_changes s]
@[simp] theorem quiesce_txLen (s : State) : (quiesce s).txLen = s.txLen := by rw [quiesce_changes s]
@[simp] theorem quiesce_rxExpect (s : State) : (quiesce s).rxExpect = s.rxExpect := by rw [quiesce_changes s]
@[simp] theorem quiesce_rxOvr (s : State) : (quiesce s).rxOvr = s.rxOvr := by rw [quiesce_changes s]
@[simp] theorem quiesce_monOvf (s : State) : (quiesce s).monOvf = s.monOvf := by rw [quiesce_changes s]
@[simp] theorem quiesce_monErr (s : State) : (quiesce s).monErr = s.monErr := by rw [quiesce_changes s]
@[simp] theorem quiesce_monFilter (s : State) : (quiesce s).monFilter = s.monFilter := by rw [quiesce_changes s]
@[simp] theorem quiesce_wire (s : State) : (quiesce s).wire = s.wire := by rw [quiesce_changes s]
@[simp] theorem quiesce_reports (s : State) : (quiesce s).reports = s.reports := by rw [quiesce_changes s]
@[simp] theorem quiesce_devOps (s : State) : (quiesce s).devOps = s.devOps := by rw [quiesce_changes s]
@[simp] theorem quiesce_bus (s : State) : (quiesce s).bus = s.bus := by rw [quiesce_changes s]
@[simp] theorem quiesce_cfg (s : State) : (quiesce s).cfg = s.cfg := by rw [quiesce_changes s]
@[simp] theorem quiesce_inputs (s : State) : (quiesce s).inputs = s.inputs := by rw [quiesce_changes s]
@[simp] theorem quiesce_held (s : State) : (quiesce s).held = s.held := by rw [quiesce_changes s]
@[simp] theorem quiesce_openAnswer (s : State) : (quiesce s).openAnswer = s.openAnswer := by rw [quiesce_changes s]

@[simp] theorem finishRx_conn (e : ErrCode) (s : State) : (finishRx e s).conn = s.conn := by rw [finishRx_eq]; rfl
@[simp] theorem finishRx_accHi (e : ErrCode) (s : State) : (finishRx e s).accHi = s.accHi := by rw [finishRx_eq]; rfl
@[simp] theorem finishRx_accLo (e : ErrCode) (s : State) : (finishRx e s).accLo = s.accLo := by rw [finishRx_eq]; rfl
@[simp] theorem finishRx_txbuf (e : ErrCode) (s : State) : (finishRx e s).txbuf = s.txbuf := by rw [finishRx_eq]; rfl
@[simp] theorem finishRx_txLen (e : ErrCode) (s : State) : (finishRx e s).txLen = s.txLen := by rw [finishRx_eq]; rfl
@[simp] theorem finishRx_rxbuf (e : ErrCode) (s : State) : (finishRx e s).rxbuf = s.rxbuf := by rw [finishRx_eq]; rfl
@[simp] theorem finishRx_rxLen (e : ErrCode) (s : State) : (finishRx e s).rxLen = s.rxLen := by rw [finishRx_eq]; rfl
@[simp] theorem finishRx_rxExpect (e : ErrCode) (s : State) : (finishRx e s).rxExpect = s.rxExpect := by rw [finishRx_eq]; rfl
@[simp] theorem finishRx_rxFifo (e : ErrCode) (s : State) : (finishRx e s).rxFifo = s.rxFifo := by rw [finishRx_eq]; rfl
@[simp] theorem finishRx_rxOvr (e : ErrCode) (s : State) : (finishRx e s).rxOvr = s.rxOvr := by rw [finishRx_eq]; rfl
@[simp] theorem finishRx_monOvf (e : ErrCode) (s : State) : (finishRx e s).monOvf = s.monOvf := by rw [finishRx_eq]; rfl
@[simp] theorem finishRx_monErr (e : ErrCode) (s : State) : (finishRx e s).monErr = s.monErr := by rw [finishRx_eq]; rfl
@[simp] theorem finishRx_monState (e : ErrCode) (s : State) : (finishRx e s).monState = s.monState := by rw [finishRx_eq]; rfl
@[simp] theorem finishRx_monFilter (e : ErrCode) (s : State) : (finishRx e s).monFilter = s.monFilter := by rw [finishRx_eq]; rfl
@[simp] theorem finishRx_monStopReq (e : ErrCode) (s : State) : (finishRx e s).monStopReq = s.monStopReq := by rw [finishRx_eq]; rfl
@[simp] theorem finishRx_monBuf (e : ErrCode) (s : State) : (finishRx e s).monBuf = s.monBuf := by rw [finishRx_eq]; rfl
@[simp] theorem finishRx_monOvfPend (e : ErrCode) (s : State) : (finishRx e s).monOvfPend = s.monOvfPend := by rw [finishRx_eq]; rfl
@[simp] theorem finishRx_mtmr (e : ErrCode) (s : State) : (finishRx e s).mtmr = s.mtmr := by rw [finishRx_eq]; rfl
@[simp] theorem finishRx_wire (e : ErrCode) (s : State) : (finishRx e s).wire = s.wire := by rw [finishRx_eq]; rfl
@[simp] theorem finishRx_reports (e : ErrCode) (s : State) : (finishRx e s).reports = s.reports := by rw [finishRx_eq]; rfl
@[simp] theorem finishRx_devOps (e : ErrCode) (s : State) : (finishRx e s).devOps = s.devOps := by rw [finishRx_eq]; rfl
@[simp] theorem finishRx_bus (e : ErrCode) (s : State) : (finishRx e s).bus = s.bus := by rw [finishRx_eq]; rfl
@[simp] theorem finishRx_cfg (e : ErrCode) (s : State) : (finishRx e s).cfg = s.cfg := by rw [finishRx_eq]; rfl
@[simp] theorem finishRx_inputs (e : ErrCode) (s : State) : (finishRx e s).inputs = s.inputs := by rw [finishRx_eq]; rfl
@[simp] theorem finishRx_held (e : ErrCode) (s : State) : (finishRx e s).held = s.held := by rw [finishRx_eq]; rfl
@[simp] theorem finishRx_openAnswer (e : ErrCode) (s : State) : (finishRx e s).openAnswer = s.openAnswer := by rw [finishRx_eq]; rfl

@[simp] theorem finishRx_err (e : ErrCode) (s : State) : (finishRx e s).err = e := by rw [finishRx_eq]; rfl
@[simp] theorem finishRx_phase (e : ErrCode) (s : State) : (finishRx e s).phase = .idle := by rw [finishRx_eq]; rfl
@[simp] theorem finishRx_tmr (e : ErrCode) (s : State) : (finishRx e s).tmr = 0 := by rw [finishRx_eq]; rfl
@[simp] theorem finishRx_curTransfer (e : ErrCode) (s : State) : (finishRx e s).curTransfer = false := by rw [finishRx_eq]; rfl
@[simp] theorem finishRx_curExpected (e : ErrCode) (s : State) : (finishRx e s).curExpected = 0 := by rw [finishRx_eq]; rfl
@[simp] theorem finishRx_txShadow (e : ErrCode) (s : State) : (finishRx e s).txShadow = [] := by rw [finishRx_eq]; rfl

theorem traceReceive_prefix (s : State) : s.trace <+: (traceReceive s).trace := by
  unfold traceReceive
  split
  · rw [traceIf_trace]; split <;> simp
  · exact List.prefix_rfl

theorem traceReceive_quiet (s : State) (h : s.cfg.verbose = false) : (traceReceive s).trace = s.trace := by
  rw [traceReceive, if_neg (by simp [h])]

theorem finishRx_trace_prefix (e : ErrCode) (s : State) : s.trace <+: (finishRx e s).trace := traceReceive_prefix s

theorem finishRx_trace_quiet (e : ErrCode) (s : State) (h : s.cfg.verbose = false) : (finishRx e s).trace = s.trace :=
  traceReceive_quiet s h

@[simp] theorem quiesceMonitor_trace (s : State) : (quiesceMonitor s).trace = s.trace := by
  rw [quiesceMonitor_changes s]

theorem takeFixed_trace (bs : List Byte) (s : State) : (takeFixed bs s).trace = s.trace := by rw [takeFixed_eq]

theorem takeFixed_cfg (bs : List Byte) (s : State) : (takeFixed bs s).cfg = s.cfg := by rw [takeFixed_eq]

theorem quiesceTransport_trace_prefix (s : State) : s.trace <+: (quiesceTransport s).trace := by
  have h := finishRx_trace_prefix .none (takeFixed s.rxFifo s)
  rw [takeFixed_trace] at h
  unfold quiesceTransport
  split
  · simp only
    split
    · exact h
    · rw [takeFixed_trace]
  · exact List.prefix_rfl

theorem quiesceTransport_trace_quiet (s : State) (h : s.cfg.verbose = false) :
    (quiesceTransport s).trace = s.trace := by
  have h' := finishRx_trace_quiet .none (takeFixed s.rxFifo s) (by rw [takeFixed_cfg]; exact h)
  rw [takeFixed_trace] at h'
  unfold quiesceTransport
  split
  · simp only
    split
    · exact h'
    · exact takeFixed_trace _ _
  · rfl

theorem quiesce_trace_prefix (s : State) : s.trace <+: (quiesce s).trace := by
  rw [quiesce, quiesceMonitor_trace]; exact quiesceTransport_trace_prefix s

theorem quiesce_trace_quiet (s : State) (h : s.cfg.verbose = false) : (quiesce s).trace = s.trace := by
  rw [quiesce, quiesceMonitor_trace]; exact quiesceTransport_trace_quiet s h

end Sys2Proof.Laws
end

