-- ==== Sys2Proof/Laws/Step.lean ====
section
/-! SUPPORT. What a step is on a listed event, what an access is on a reached register, and when quiescence after an event
changes nothing. -/

namespace Sys2Proof.Laws

open Sys2Proof.Machine

/-! ### One step -/

/-- A step on a listed event. -/
theorem step_listed (s : State) (e : Event) (rest : List Event) (hw : s.cfg.wf = true) (hi : s.inputs = e :: rest) :
    step s = runEvent e { s with inputs := rest } := by
  unfold step takeEvent
  rw [if_pos hw, hi]

/-- A step on a listed event that is enabled. -/
theorem step_enabled (s : State) (e : Event) (rest : List Event) (hw : s.cfg.wf = true) (hi : s.inputs = e :: rest)
    (he : enabled e { s with inputs := rest } = true) : step s = perform e { s with inputs := rest } := by
  rw [step_listed s e rest hw hi, runEvent, if_pos he]

/-- A step on a listed event that is not enabled. -/
theorem step_disabled (s : State) (e : Event) (rest : List Event) (hw : s.cfg.wf = true) (hi : s.inputs = e :: rest)
    (he : enabled e { s with inputs := rest } = false) : step s = .fault (whyNot e) := by
  rw [step_listed s e rest hw hi, runEvent, if_neg (by simp [he])]

theorem runEvent_next {e : Event} {s t : State} (h : runEvent e s = .next t) :
    enabled e s = true ∧ perform e s = .next t := by
  unfold runEvent at h
  split at h
  · exact ⟨‹_›, h⟩
  · cases h

/-- Every step that goes on performs one event in the state without it; the configuration is well formed, and the state
without the event differs in the listed inputs and the draws only. -/
theorem step_next {s t : State} (h : step s = .next t) :
    s.cfg.wf = true ∧ ∃ e inputs draws, enabled e { s with inputs := inputs, draws := draws } = true ∧
      perform e { s with inputs := inputs, draws := draws } = .next t ∧
      (∀ e' rest, s.inputs = e' :: rest → e = e' ∧ inputs = rest ∧ draws = s.draws) := by
  unfold step at h
  split at h
  · rename_i hw
    refine ⟨hw, ?_⟩
    obtain ⟨he, hp⟩ := runEvent_next h
    cases hi : s.inputs with
    | nil =>
      have h2 : (takeEvent s).2 = { s with inputs := s.inputs, draws := s.draws + 1 } := by simp only [takeEvent, hi]
      rw [h2] at he hp
      exact ⟨_, _, _, he, hp, fun _ _ h' => nomatch h'⟩
    | cons e rest =>
      have h2 : takeEvent s = (e, { s with inputs := rest }) := by simp only [takeEvent, hi]
      rw [h2] at he hp
      exact ⟨e, rest, s.draws, he, hp, fun _ _ h' => by cases h'; exact ⟨rfl, rfl, rfl⟩⟩
  · cases h

/-! ### Quiescence in the invariant -/

theorem quiet_of_inv {s : State} (h : Inv s) : Quiet s := by
  refine ⟨fun hp => ⟨?_, (h.fixedReceive hp).2.2⟩, h.monitorTakesAll⟩
  intro he
  have hlt : s.rxLen.toNat < s.rxExpect.toNat := (h.fixedReceive hp).1
  rw [he] at hlt
  exact Nat.lt_irrefl _ hlt

/-- An update that leaves what the pending reads look at leaves nothing to take. -/
theorem quiesce_of_same {s t : State} (h : Inv s) (hp : t.phase = s.phase) (hl : t.rxLen = s.rxLen)
    (hx : t.rxExpect = s.rxExpect) (hf : t.rxFifo = s.rxFifo) (hm : t.monState = s.monState) : quiesce t = t := by
  have hq := quiet_of_inv h
  refine quiesce_of_quiet t ⟨fun hpt => ?_, fun hmt => ?_⟩
  · rw [hl, hx, hf]; exact hq.1 (hp ▸ hpt)
  · rw [hf]; exact hq.2 (hm ▸ hmt)

/-! ### The host bus -/

theorem offsetOf_some {c : Config} {addr off : Nat} :
    offsetOf c addr = some off ↔ addr = c.base + off ∧ off < Config.windowSize := by
  unfold offsetOf
  split
  · rename_i h
    simp only [Option.some.injEq]
    constructor
    · intro h'; omega
    · intro h'; omega
  · rename_i h
    simp only [reduceCtorEq, false_iff]
    omega

theorem offsetOf_base (c : Config) : offsetOf c c.base = some 0 := by
  rw [offsetOf_some]; exact ⟨rfl, by decide⟩

/-- A register is reached by an aligned word access inside the window only. -/
theorem target_some {off width : Nat} {r : Reg} (h : target off width = some r) :
    width = 4 ∧ off % 4 = 0 ∧ regAt off = some r ∧ off < Config.windowSize := by
  unfold target at h
  split at h
  · cases h
  · split at h
    · cases h
    · rename_i hw ha
      refine ⟨by omega, by omega, h, ?_⟩
      unfold regAt at h
      unfold Config.windowSize
      repeat' split at h
      all_goals first | (cases h; done) | omega

theorem target_cmd {off width : Nat} : target off width = some .cmd ↔ off = 0 ∧ width = 4 := by
  constructor
  · intro h
    obtain ⟨hw, -, hr, -⟩ := target_some h
    refine ⟨?_, hw⟩
    unfold regAt at hr
    repeat' split at hr
    all_goals first | assumption | cases hr
  · rintro ⟨rfl, rfl⟩; rfl

/-- The accesses that hold (R281): CMD writes, while BUSY. -/
theorem holds_eq (acc : Access) (s : State) :
    holds acc s = true ↔ s.phase ≠ .idle ∧ ∃ w, acc = .write 4 s.cfg.base w := by
  unfold holds isCmdWrite
  rw [Bool.and_eq_true, Bool.and_eq_true, busy_eq, beq_iff_eq]
  refine and_congr_right fun _ => ?_
  constructor
  · rintro ⟨hw, ht⟩
    cases acc with
    | read w a => cases hw
    | write w a v =>
      obtain ⟨off, ho, hr⟩ := Option.bind_eq_some_iff.mp ht
      obtain ⟨rfl, rfl⟩ := target_cmd.mp hr
      obtain ⟨ha, -⟩ := offsetOf_some.mp ho
      exact ⟨v, by simp only [Access.addr, Nat.add_zero] at ha; subst ha; rfl⟩
  · rintro ⟨w, rfl⟩
    refine ⟨rfl, Option.bind_eq_some_iff.mpr ⟨0, offsetOf_base _, rfl⟩⟩

theorem not_holds_of_idle (acc : Access) (s : State) (h : s.phase = .idle) : holds acc s = false := by
  rw [Bool.eq_false_iff, Ne, holds_eq]
  exact fun h' => h'.1 h

/-- An access that reaches a register. -/
theorem performAccess_reg (agent : Nat) (acc : Access) (s : State) (off : Nat) (r : Reg)
    (ho : offsetOf s.cfg acc.addr = some off) (ht : target off acc.width = some r) :
    performAccess agent acc s = andThen (accessReg agent r acc s) quiesce := by
  unfold performAccess
  rw [ho]
  simp only [ht]

/-- An access the bus refuses. -/
theorem performAccess_refused (agent : Nat) (acc : Access) (s : State) (off : Nat)
    (ho : offsetOf s.cfg acc.addr = some off) (ht : target off acc.width = none) :
    performAccess agent acc s = .next (quiesce (answer agent .busError s)) := by
  unfold performAccess
  rw [ho]
  simp only [ht]

/-- A CMD write. -/
theorem performAccess_cmd (agent : Nat) (w : Word) (s : State) :
    performAccess agent (.write 4 s.cfg.base w) s =
      andThen (issueCommand w s) (fun t => quiesce (answer agent .done t)) := by
  rw [performAccess_reg agent _ s 0 .cmd (offsetOf_base _) rfl]
  simp only [accessReg, writeReg]
  cases issueCommand w s <;> rfl

theorem issueAccess_free (agent : Nat) (acc : Access) (s : State) (hh : isHeld agent s.held = false)
    (hn : holds acc s = false) : issueAccess agent acc s = performAccess agent acc s := by
  unfold issueAccess
  rw [hh, hn]
  rfl

/-- An issued access that does not wait performs (R71, R281). -/
theorem step_host (s : State) (agent : Nat) (acc : Access) (rest : List Event) (hw : s.cfg.wf = true)
    (hi : s.inputs = .host agent acc :: rest) (ho : (offsetOf s.cfg acc.addr).isSome = true)
    (hh : isHeld agent s.held = false) (hn : holds acc s = false) :
    step s = performAccess agent acc { s with inputs := rest } := by
  rw [step_enabled s _ rest hw hi (by simpa [enabled] using ho)]
  exact issueAccess_free agent acc { s with inputs := rest } hh hn

/-- An issued access that waits changes the list of waiting accesses only (R71, R281). -/
theorem step_host_waits (s : State) (agent : Nat) (acc : Access) (rest : List Event) (hw : s.cfg.wf = true)
    (hi : s.inputs = .host agent acc :: rest) (ho : (offsetOf s.cfg acc.addr).isSome = true)
    (hh : isHeld agent s.held = true ∨ holds acc s = true) :
    step s = .next { s with inputs := rest, openAnswer := none, held := s.held ++ [⟨agent, acc, s.openAnswer⟩] } := by
  rw [step_enabled s _ rest hw hi (by simpa [enabled] using ho)]
  show issueAccess agent acc { s with inputs := rest } = _
  rw [issueAccess, if_pos (by rw [Bool.or_eq_true]; exact hh)]

/-- Only a write that reaches CMD holds. -/
theorem not_holds_of_not_cmd {acc : Access} {s : State} {off : Nat} {r : Reg} (ho : offsetOf s.cfg acc.addr = some off)
    (ht : target off acc.width = some r) (hr : acc.isWrite = true → r ≠ .cmd) : holds acc s = false := by
  unfold holds isCmdWrite
  rw [ho, Option.bind_some, ht]
  cases hw : acc.isWrite with
  | false => simp
  | true => simp [hr hw]

/-- A refused access does not hold. -/
theorem not_holds_of_refused {acc : Access} {s : State} {off : Nat} (ho : offsetOf s.cfg acc.addr = some off)
    (ht : target off acc.width = none) : holds acc s = false := by
  unfold holds isCmdWrite
  rw [ho, Option.bind_some, ht]
  simp

/-- In a quiet state a refused access only answers BusError (R66). -/
theorem performAccess_busError (agent : Nat) (acc : Access) (s : State) (off : Nat) (hq : Quiet s)
    (ho : offsetOf s.cfg acc.addr = some off) (ht : target off acc.width = none) :
    performAccess agent acc s = .next { s with openAnswer := none, bus := s.bus ++ [⟨agent, .busError⟩] } := by
  rw [performAccess_refused agent acc s off ho ht]
  exact congrArg _ (quiesce_of_quiet (answer agent .busError s) hq)

/-- What a read of a register answers (10_state.md R45 to R54). -/
theorem readReg_answers (r : Reg) (s : State) (hf : s.rxFifo.length < 65536) :
    ∃ d, (readReg r s).2 = { s with draws := d } ∧ ReadAnswers r s (readReg r s).1 d := by
  have half : ∀ h : Half, (h.zeroExtend 32).toNat = h.toNat := fun h => by have := h.isLt; simp; omega
  have byte : ∀ b : Byte, (b.zeroExtend 32).toNat = b.toNat := fun b => by have := b.isLt; simp; omega
  have entry : ∀ e : Option Byte, (readEntry e s).1.toNat < 256 ∧
      ∀ b, e = some b → (readEntry e s).1.toNat = b.toNat ∧ (readEntry e s).2.draws = s.draws := by
    intro e
    refine ⟨by simp only [readEntry, byte]; exact BitVec.isLt _, ?_⟩
    rintro b rfl
    exact ⟨byte b, rfl⟩
  cases r
  case cmd => exact ⟨s.draws, rfl, rfl, rfl⟩
  case status => exact ⟨s.draws, rfl, rfl, rfl⟩
  case crcAcc =>
    refine ⟨s.draws, rfl, ?_, rfl⟩
    have h1 := s.accLo.isLt
    have h2 := s.accHi.isLt
    show (crcAccWord s).toNat = _
    unfold crcAccWord
    rw [BitVec.toNat_append, BitVec.toNat_append, ← Nat.shiftLeft_add_eq_or_of_lt (by omega),
      ← Nat.shiftLeft_add_eq_or_of_lt (by omega)]
    simp [Nat.shiftLeft_eq]
    omega
  case txLen => exact ⟨s.draws, rfl, half _, rfl⟩
  case rxLen => exact ⟨s.draws, rfl, half _, rfl⟩
  case rxExpect => exact ⟨s.draws, rfl, half _, rfl⟩
  case rxAvail =>
    refine ⟨s.draws, rfl, ?_, rfl⟩
    show (rxAvailWord s).toNat = _
    rw [rxAvailWord, half, BitVec.toNat_ofNat]
    exact Nat.mod_eq_of_lt hf
  case monFilter => exact ⟨s.draws, rfl, byte _, rfl⟩
  case txBuf i => exact ⟨_, rfl, entry _⟩
  case rxBuf i => exact ⟨_, rfl, entry _⟩

/-- In a quiet state a read of a register only answers (R65, R68). -/
theorem performAccess_read (agent off : Nat) (r : Reg) (s : State) (hq : Quiet s) (hf : s.rxFifo.length < 65536)
    (ht : target off 4 = some r) :
    ∃ v d, ReadAnswers r s v d ∧ performAccess agent (.read 4 (s.cfg.base + off)) s =
      .next { s with openAnswer := none, bus := s.bus ++ [⟨agent, .data v⟩], draws := d } := by
  obtain ⟨d, hd, ha⟩ := readReg_answers r s hf
  refine ⟨_, d, ha, ?_⟩
  rw [performAccess_reg agent (.read 4 (s.cfg.base + off)) s off r (offsetOf_some.mpr ⟨rfl, (target_some ht).2.2.2⟩) ht]
  simp only [accessReg, hd]
  exact congrArg _ (quiesce_of_quiet (answer agent _ { s with draws := d }) hq)

/-- In a quiet state a write of a register other than CMD sets one entry of `txbuf`, or `tx_len`, or nothing (R47, R53,
R65). -/
theorem performAccess_write (agent off : Nat) (r : Reg) (v : Word) (s : State) (hq : Quiet s) (ht : target off 4 = some r)
    (hr : r ≠ .cmd) :
    ∃ m, TxbufAfterWrite r v s.txbuf m ∧ performAccess agent (.write 4 (s.cfg.base + off) v) s =
      .next
        { s with
          openAnswer := none, bus := s.bus ++ [⟨agent, .done⟩], txbuf := m,
          txLen := if r = .txLen then v.extractLsb' 0 16 else s.txLen } := by
  rw [performAccess_reg agent (.write 4 (s.cfg.base + off) v) s off r
    (offsetOf_some.mpr ⟨rfl, (target_some ht).2.2.2⟩) ht]
  have quiet : ∀ m l, quiesce (answer agent .done { s with txbuf := m, txLen := l }) =
      { s with openAnswer := none, bus := s.bus ++ [⟨agent, .done⟩], txbuf := m, txLen := l } :=
    fun m l => quiesce_of_quiet (answer agent .done { s with txbuf := m, txLen := l }) hq
  cases r <;> simp only [accessReg, writeReg, andThen]
  case cmd => exact absurd rfl hr
  case txBuf i =>
    refine ⟨_, fun a => ?_, congrArg _ (quiet _ _)⟩
    have hi := i.isLt
    rw [read_write]
    by_cases ha : a = i.val
    · subst ha; simp
    · simp [ha]
  all_goals exact ⟨s.txbuf, fun a => by simp, congrArg _ (quiet _ _)⟩

theorem freshAgent_not_held (l : List HeldAccess) (a : Nat)
    (h : l.foldr (fun h n => max (h.agent + 1) n) 0 ≤ a) : isHeld a l = false := by
  induction l with
  | nil => rfl
  | cons x l ih =>
    simp only [List.foldr_cons, Nat.max_le] at h
    have := ih h.2
    simp only [isHeld, List.any_cons, Bool.or_eq_false_iff, beq_eq_false_iff_ne] at this ⊢
    exact ⟨by omega, this⟩

end Sys2Proof.Laws
end

