-- ==== Sys2Proof/Laws/Invariant.lean ====
section
/-! SUPPORT. What holds between an event's rule and the quiescence that follows it, that quiescence restores the invariants,
and the lemmas of the shared operations that later proofs cite. -/

namespace Sys2Proof.Laws

open Sys2Proof.Machine

/-! ### Runs, checks, held accesses -/

/-- One step of a run. -/
theorem run_succ {s u : State} (k : Nat) (h : step s = .next u) :
    Host.Core.run Sys2Proof.core (k + 1) s = Host.Core.run Sys2Proof.core k u := by
  have general : ∀ (M : Host.Core) (x : M.State), M.run (k + 1) x =
      (match M.step x with | .next y => M.run k y | .fault r => .fault r | .refused r => .refused r) := fun _ _ => rfl
  have hc := general Sys2Proof.core s
  rw [show Sys2Proof.core.step s = .next u from h] at hc
  exact hc

/-- With no error, every check passed (R262). -/
theorem firstError_none : ∀ l : List (Bool × ErrCode), firstError l = none → ∀ c ∈ l, c.1 = false
  | [], _ => by simp
  | (b, e) :: l, h => by
    unfold firstError at h
    cases b with
    | true => simp at h
    | false =>
      have ih := firstError_none l (by simpa using h)
      intro c hc
      rcases List.mem_cons.mp hc with rfl | hc
      · rfl
      · exact ih c hc

/-- The agent's oldest held access is the first of its entries (R71). -/
theorem takeHeld_split (found : HeldAccess) (before after : List HeldAccess)
    (h : ∀ x ∈ before, x.agent ≠ found.agent) :
    takeHeld found.agent (before ++ found :: after) = some (found, before ++ after) := by
  induction before with
  | nil => simp [takeHeld]
  | cons x l ih =>
    have hl := ih (fun y hy => h y (List.mem_cons_of_mem _ hy))
    simp [takeHeld, h x, hl]

/-- What `takeHeld` answers was held. -/
theorem takeHeld_mem (agent : Nat) : ∀ (l : List HeldAccess) (found : HeldAccess) (others : List HeldAccess),
    takeHeld agent l = some (found, others) → found.agent = agent ∧ found ∈ l ∧ ∀ h ∈ others, h ∈ l := by
  intro l
  induction l with
  | nil => intro _ _ h; cases h
  | cons x l ih =>
    intro found others h
    unfold takeHeld at h
    split at h
    · rename_i hx
      cases h
      exact ⟨hx, by simp, fun h hh => List.mem_cons_of_mem _ hh⟩
    · split at h
      · cases h
      · rename_i found' others' he
        cases h
        obtain ⟨h0, h1, h2⟩ := ih _ _ he
        refine ⟨h0, List.mem_cons_of_mem _ h1, fun h hh => ?_⟩
        rcases List.mem_cons.mp hh with rfl | hh
        · simp
        · exact List.mem_cons_of_mem _ (h2 h hh)

/-- A resumed access that nothing makes wait performs, with the answer announced for it (R281, 30_encoding.md R99). -/
theorem step_resume (s : State) (h : HeldAccess) (before after : List HeldAccess) (rest : List Event)
    (hw : s.cfg.wf = true) (hi : s.inputs = .resume h.agent :: rest) (hl : s.held = before ++ h :: after)
    (hb : ∀ x ∈ before, x.agent ≠ h.agent) (ho : (offsetOf s.cfg h.acc.addr).isSome = true)
    (hn : holds h.acc s = false) :
    step s =
      performAccess h.agent h.acc { s with inputs := rest, held := before ++ after, openAnswer := h.openAnswer } := by
  have ht := takeHeld_split h before after hb
  have hn' : holds h.acc { s with inputs := rest } = false := hn
  rw [step_enabled s _ rest hw hi (by simp only [enabled, hl, ht, ho]; rw [← hl]; simpa using hn')]
  show resumeAccess h.agent { s with inputs := rest } = _
  unfold resumeAccess
  simp only [hl, ht]
  rw [if_neg]
  rw [← hl, hn']
  decide

/-- A resumed access that still holds has no move (R281). -/
theorem step_resume_holds (s : State) (h : HeldAccess) (before after : List HeldAccess) (rest : List Event)
    (hw : s.cfg.wf = true) (hi : s.inputs = .resume h.agent :: rest) (hl : s.held = before ++ h :: after)
    (hb : ∀ x ∈ before, x.agent ≠ h.agent) (hn : holds h.acc s = true) :
    step s = .fault (.notEnabled (.resume h.agent)) := by
  have ht := takeHeld_split h before after hb
  have hn' : holds h.acc { s with inputs := rest } = true := hn
  exact step_disabled s _ rest hw hi (by simp only [enabled, hl, ht]; rw [← hl, hn']; simp)

/-- A read of a register changes the draws only (R68). -/
theorem readReg_draws (r : Reg) (s : State) : ∃ d, (readReg r s).2 = { s with draws := d } := by
  cases r <;> exact ⟨_, rfl⟩

/-! ### Sending and finishing -/

/-- What SEND and TRANSFER do when accepted (R174, R178). -/
theorem beginSend_eq (a transfer : Bool) (n : Half) (s : State) :
    beginSend a transfer n s =
      { s with
        accHi := if a then (crc (txFrame s).1).1 else s.accHi, accLo := if a then (crc (txFrame s).1).2 else s.accLo,
        rxFifo := [], txShadow := frameOf a (txFrame s).1, curTransfer := transfer, curExpected := n, err := .none,
        phase := .sWrite,
        trace := if s.cfg.verbose then s.trace ++ [.tx (frameOf a (txFrame s).1)] else s.trace,
        devOps := s.devOps ++ [.drain, .write (frameOf a (txFrame s).1)], draws := (txFrame s).2 } := by
  unfold beginSend traceIf
  cases a <;> by_cases hv : s.cfg.verbose = true <;> simp [setAcc, drive, hv, accAfter, frameOf, withCrc]

/-- `finish_rx` with the received entries written: the trace gets them, and no draw is made (R198). -/
theorem finishRx_entries (e : ErrCode) (s : State) (bs : List Byte) (h : Entries s.rxbuf s.rxLen.toNat bs) :
    finishRx e s =
      { s with
        err := e, phase := .idle, tmr := 0, curTransfer := false, curExpected := 0, txShadow := [],
        trace := s.trace ++ receiveTrace s.cfg bs } := by
  rw [finishRx_written e s bs h.1 (fun i hi => h.2 i hi)]
  have hz : bs ≠ [] ↔ s.rxLen ≠ 0 := by
    rw [← List.length_pos_iff_ne_nil, h.1]
    constructor
    · intro h1 h2; rw [h2] at h1; simp at h1
    · intro h1
      rcases Nat.eq_zero_or_pos s.rxLen.toNat with h2 | h2
      · exact absurd (BitVec.eq_of_toNat_eq h2) h1
      · exact h2
  unfold receiveTrace
  by_cases hv : s.cfg.verbose <;> by_cases hb : bs = [] <;> simp_all [complete]

/-- A buffer whose first entries are written has some bytes in them. -/
theorem entries_of_received (s : State) (h : ∀ i, i < s.rxLen.toNat → (s.rxbuf.read i).isSome = true) :
    ∃ bs, Entries s.rxbuf s.rxLen.toNat bs := by
  obtain ⟨bs, h1, h2⟩ := exists_entries _ _ h
  exact ⟨bs, h1, fun i hi => h2 i (by omega)⟩

/-! ### Before quiescence -/

/-- The bounds of a well-formed configuration (R9). -/
theorem config_bounds {c : Config} (h : c.wf = true) :
    1 ≤ c.tIfd ∧ 1 ≤ c.tRx ∧ 1 ≤ c.tSettle ∧ c.tGap = c.tIfd ∧ 1 ≤ c.rxFifoDepth ∧ c.rxFifoDepth ≤ 65535 ∧
      1 ≤ c.monBufMax := by
  simp only [Config.wf, Config.intervalsOk, Config.gapOk, Config.fifoOk, Config.monBufOk, Bool.and_eq_true,
    decide_eq_true_eq, beq_iff_eq] at h
  omega

/-- `Inv` without what quiescence establishes: that no byte waits for a pending read. -/
structure Unsettled (s : State) : Prop where
  config : s.cfg.wf = true
  monitorExclusive : s.monState = .running → s.phase = .idle ∧ s.conn = .opened
  busyIsOpen : s.phase ≠ .idle → s.conn = .opened
  fixedReceive : s.phase = .rFixed → s.rxLen < s.rxExpect ∧ s.rxExpect.toNat ≤ 256
  settleReceive : s.phase = .rSettle → s.rxLen = 0 ∧ s.rxExpect = 0
  ifdTimer : s.phase = .sIfd → s.tmr < s.cfg.tIfd
  fixedTimer : s.phase = .rFixed → s.tmr < s.cfg.tRx
  settleTimer : s.phase = .rSettle → s.tmr < s.cfg.tSettle
  monitorTimer : s.mtmr < s.cfg.tGap
  shadowBound : s.txShadow.length ≤ 258
  fifoBound : s.rxFifo.length ≤ s.cfg.rxFifoDepth
  monBufBound : s.monBuf.length ≤ s.cfg.monBufMax
  filterBound : s.monFilter.toNat ≤ 63
  rxLenBound : s.rxLen.toNat ≤ 256
  expectedBound : s.curExpected.toNat ≤ 256
  txbufWf : s.txbuf.wf = true
  rxbufWf : s.rxbuf.wf = true
  received : ∀ i, i < s.rxLen.toNat → (s.rxbuf.read i).isSome = true
  busyNoError : s.phase ≠ .idle → s.err = .none
  idleContext : s.phase = .idle → s.tmr = 0 ∧ s.curTransfer = false ∧ s.curExpected = 0 ∧ s.txShadow = []
  closedEmpty : s.conn = .closed → s.rxFifo = []
  monitorAtRest : s.monState ≠ .running →
    s.monBuf = [] ∧ s.monOvfPend = false ∧ s.monStopReq = false ∧ s.mtmr = 0
  overflowFull : s.monOvfPend = true → s.monBuf.length = s.cfg.monBufMax
  heldInWindow : ∀ h ∈ s.held, (offsetOf s.cfg h.acc.addr).isSome = true

theorem unsettled_of_inv {s : State} (h : Inv s) : Unsettled s := by
  have hf := h.fixedReceive
  obtain ⟨⟩ := h
  constructor <;> first | assumption | exact fun hp => ⟨(hf hp).1, (hf hp).2.1⟩

/-- Ending a receive with new contents of `rxbuf`, `rx_len`, `rx_fifo`, `rx_ovr` and the timer. -/
theorem unsettled_finishRx {e : ErrCode} {s : State} (m : Memory) (l : Half) (f : List Byte) (o : Bool) (k : Nat)
    (hs : Unsettled s) (hc : s.conn = .opened) (hm : m.wf = true) (hl : l.toNat ≤ 256)
    (hr : ∀ i, i < l.toNat → (m.read i).isSome = true) (hf : f.length ≤ s.cfg.rxFifoDepth) :
    Unsettled (finishRx e { s with rxbuf := m, rxLen := l, rxFifo := f, rxOvr := o, tmr := k }) := by
  obtain ⟨⟩ := hs
  constructor <;> simp_all

/-- New contents of `rx_fifo` on an open connection. -/
theorem unsettled_fifo {s : State} (l : List Byte) (hs : Unsettled s) (hl : l.length ≤ s.cfg.rxFifoDepth)
    (hc : s.conn = .opened) : Unsettled { s with rxFifo := l } := by
  obtain ⟨⟩ := hs
  constructor <;> first | assumption | simp [hc]

theorem unsettled_monByte {b : Byte} {s : State} (hs : Unsettled s) (hr : s.monState = .running) :
    Unsettled (monByte b s) := by
  have hg := config_bounds hs.config
  have hov := hs.overflowFull
  cases hq : s.monStopReq with
  | true =>
    rw [monByte_stop b s hq]
    obtain ⟨⟩ := hs
    constructor <;> simp_all [stopRun]
    all_goals omega
  | false =>
    unfold monByte nextAttempt
    by_cases hl : s.monBuf.length < s.cfg.monBufMax
    · have ho : s.monOvfPend = false := by
        cases ho : s.monOvfPend with
        | false => rfl
        | true => have := hov ho; omega
      obtain ⟨⟩ := hs
      simp only [hl, hq]
      constructor <;> simp_all; omega
    · obtain ⟨⟩ := hs
      simp only [hl, hq]
      constructor <;> simp_all <;> omega

theorem unsettled_takeMonitor (bs : List Byte) : ∀ s : State, Unsettled s → bs.length ≤ s.cfg.rxFifoDepth →
    s.conn = .opened → Unsettled (takeMonitor bs s) := by
  induction bs with
  | nil => intro s hs h hc; unfold takeMonitor; exact unsettled_fifo _ hs h hc
  | cons b bs ih =>
    intro s hs h hc
    unfold takeMonitor
    split
    · rename_i hr
      refine ih _ (unsettled_monByte hs (by simpa using hr)) ?_ ?_
      · rw [monByte_changes b s]; simp only [List.length_cons] at h; simp only; omega
      · rw [monByte_changes b s]; exact hc
    · exact unsettled_fifo _ hs h hc

theorem unsettled_quiesceTransport {s : State} (hs : Unsettled s) :
    Unsettled (quiesceTransport s) ∧ ((quiesceTransport s).phase = .rFixed → (quiesceTransport s).rxFifo = []) := by
  by_cases hp : s.phase = .rFixed
  · obtain ⟨hlt, h256⟩ := hs.fixedReceive hp
    have hlt' : s.rxLen.toNat < s.rxExpect.toNat := hlt
    have hc := hs.busyIsOpen (by rw [hp]; decide)
    by_cases h : s.rxFifo.length < s.rxExpect.toNat - s.rxLen.toNat
    · rw [quiesceTransport_short s hp h]
      refine ⟨?_, fun _ => rfl⟩
      have hl : (s.rxLen + BitVec.ofNat 16 s.rxFifo.length).toNat = s.rxLen.toNat + s.rxFifo.length := by
        rw [BitVec.toNat_add, BitVec.toNat_ofNat]; omega
      have hr := hs.received
      have hw := writeAll_wf s.rxFifo s.rxbuf s.rxLen.toNat hs.rxbufWf
      obtain ⟨⟩ := hs
      constructor <;> first | assumption | skip
      · intro _
        refine ⟨?_, h256⟩
        show BitVec.toNat _ < s.rxExpect.toNat
        rw [hl]; omega
      · intro h; exfalso; simp [hp] at h
      · simp
      · simp only [hl]; omega
      · intro i hi
        simp only [hl] at hi
        by_cases h1 : i < s.rxLen.toNat
        · rw [read_writeAll_below _ _ _ _ h1]; exact hr i h1
        · obtain ⟨j, rfl⟩ : ∃ j, i = s.rxLen.toNat + j := ⟨i - s.rxLen.toNat, by omega⟩
          rw [read_writeAll_inside]
          · simp; omega
          · omega
          · unfold Config.bufSize; omega
      · simp
    · rw [quiesceTransport_full s hp (by omega) (by omega)]
      refine ⟨?_, by simp⟩
      refine unsettled_finishRx (s := s) _ _ _ s.rxOvr s.tmr hs hc ?_ h256 ?_ ?_
      · exact writeAll_wf _ _ _ hs.rxbufWf
      · intro i hi
        by_cases h1 : i < s.rxLen.toNat
        · rw [read_writeAll_below _ _ _ _ h1]; exact hs.received i h1
        · obtain ⟨j, rfl⟩ : ∃ j, i = s.rxLen.toNat + j := ⟨i - s.rxLen.toNat, by omega⟩
          rw [read_writeAll_inside]
          · simp only [List.getElem?_take]; rw [if_pos (by omega)]; simp; omega
          · simp only [List.length_take]; omega
          · simp only [List.length_take] at *; unfold Config.bufSize; omega
      · have := hs.fifoBound; simp only [List.length_drop]; omega
  · rw [quiesceTransport_of_ne s hp]
    exact ⟨hs, fun h => absurd h hp⟩

/-- Quiescence restores the invariants (R244). -/
theorem inv_quiesce {s : State} (hs : Unsettled s) : Inv (quiesce s) := by
  obtain ⟨h1, h2⟩ := unsettled_quiesceTransport hs
  have hphase : ∀ u : State, (quiesceMonitor u).phase = u.phase := fun u => by rw [quiesceMonitor_changes u]
  have h3 : Unsettled (quiesceMonitor (quiesceTransport s)) := by
    unfold quiesceMonitor
    split
    · rename_i hr
      exact unsettled_takeMonitor _ _ h1 h1.fifoBound (h1.monitorExclusive (by simpa using hr)).2
    · exact h1
  have h4 : (quiesceMonitor (quiesceTransport s)).phase = .rFixed →
      (quiesceMonitor (quiesceTransport s)).rxFifo = [] := by
    intro hp
    rw [hphase] at hp
    have hm : (quiesceTransport s).monState ≠ .running := fun h => by
      rw [(h1.monitorExclusive h).1] at hp; cases hp
    rw [quiesceMonitor_of_ne _ hm]
    exact h2 hp
  have h5 := quiesceMonitor_running (quiesceTransport s)
  have hf := h3.fixedReceive
  unfold quiesce
  obtain ⟨⟩ := h3
  constructor <;> first | assumption | exact fun hp => ⟨(hf hp).1, (hf hp).2, h4 hp⟩

end Sys2Proof.Laws
end

