-- ==== Sys2Proof/Laws/Command.lean ====
section
/-! SUPPORT. What a step and a host event can do, said once: which event a step performs, and whether an access of the host
waits, leaves the block alone but for a write of a buffer or a length, or runs a command. -/

namespace Sys2Proof.Laws

open Sys2Proof.Machine

/-- Every step that goes on performs the event that comes next, which is enabled. -/
theorem step_takeEvent {s t : State} (h : step s = .next t) :
    s.cfg.wf = true ∧ enabled (takeEvent s).1 (takeEvent s).2 = true ∧
      perform (takeEvent s).1 (takeEvent s).2 = .next t ∧
      ∃ inputs draws, (takeEvent s).2 = { s with inputs := inputs, draws := draws } := by
  unfold step at h
  split at h
  · rename_i hw
    obtain ⟨he, hp⟩ := runEvent_next h
    refine ⟨hw, he, hp, ?_⟩
    unfold takeEvent
    split
    · exact ⟨_, _, rfl⟩
    · exact ⟨s.inputs, _, rfl⟩
  · cases h

/-- What an access that performs can do: it runs the command of a CMD write, or changes `txbuf`, `tx_len` and the model's own
fields only; quiescence follows. -/
theorem performAccess_cases {agent : Nat} {acc : Access} {s t : State} (h : performAccess agent acc s = .next t) :
    (∃ m l b d, t = quiesce { s with txbuf := m, txLen := l, bus := b, openAnswer := none, draws := d }) ∨
    (∃ width addr v u, acc = .write width addr v ∧ isCmdWrite s.cfg acc = true ∧ issueCommand v s = .next u ∧
      t = quiesce (answer agent .done u)) := by
  unfold performAccess at h
  split at h
  · cases h
  · rename_i off ho
    split at h
    · cases h
      exact .inl ⟨_, _, _, _, rfl⟩
    · rename_i r hr
      cases acc with
      | read width addr =>
        obtain ⟨d, hd⟩ := readReg_draws r s
        simp only [accessReg, hd, andThen] at h
        cases h
        exact .inl ⟨_, _, _, _, rfl⟩
      | write width addr v =>
        cases r
        case cmd =>
          have hc : isCmdWrite s.cfg (.write width addr v) = true := by
            unfold isCmdWrite
            rw [ho, Option.bind_some, hr]
            rfl
          cases hu : issueCommand v s with
          | next u =>
            simp only [accessReg, writeReg, hu, andThen] at h
            cases h
            exact .inr ⟨_, _, _, u, rfl, hc, hu, rfl⟩
          | fault u => simp only [accessReg, writeReg, hu, andThen] at h; cases h
          | refused u => simp only [accessReg, writeReg, hu, andThen] at h; cases h
        all_goals (cases h; exact .inl ⟨_, _, _, _, rfl⟩)

/-- What a host event can do: its access waits, or performs. -/
theorem perform_host_cases {e : Event} {s t : State} (h : perform e s = .next t) (he : isHostEvent e = true) :
    (∃ l, t = { s with held := l, openAnswer := none } ∧ performingAccess e s = none) ∨
    (∃ agent acc l o, performAccess agent acc { s with held := l, openAnswer := o } = .next t ∧
      performingAccess e s = some acc ∧ holds acc s = false ∧ ∀ x ∈ l, x ∈ s.held) := by
  cases e with
  | host agent acc =>
    change issueAccess agent acc s = _ at h
    unfold issueAccess at h
    split at h
    · rename_i hc
      cases h
      exact .inl ⟨_, rfl, by simp only [performingAccess]; rw [if_pos hc]⟩
    · rename_i hc
      exact .inr ⟨agent, acc, s.held, s.openAnswer, h, by simp only [performingAccess]; rw [if_neg hc],
        by simp at hc; exact hc.2, fun _ hx => hx⟩
  | resume agent =>
    change resumeAccess agent s = _ at h
    unfold resumeAccess at h
    split at h
    · cases h
    · rename_i found others ht
      split at h
      · cases h
      · rename_i hc
        exact .inr ⟨agent, found.acc, others, found.openAnswer, h,
          by simp only [performingAccess, ht]; rw [if_neg hc], by simpa using hc, (takeHeld_mem _ _ _ _ ht).2.2⟩
  | _ => cases he

/-- What a performed CMD write can do: it runs its word's command, or is rejected as a reserved opcode. -/
theorem issueCommand_cases {w : Word} {s t : State} (h : issueCommand w s = .next t) :
    (∃ i, (decode w).instr? = some i ∧ exec i s = .next t) ∨
    ((decode w).instr? = none ∧ t = setErr .illegalCommand s) := by
  unfold issueCommand at h
  split at h
  · rename_i hd
    cases h
    rw [hd]
    exact .inr ⟨rfl, rfl⟩
  · rename_i i hd
    rw [hd]
    exact .inl ⟨i, rfl, h⟩

end Sys2Proof.Laws
end

