-- ==== Sys2Proof/Laws/Encoding.lean ====
section
/-! SUPPORT. The fields of a packed command word (30_encoding.md R90, R92), each read back. -/

namespace Sys2Proof.Laws

@[simp] theorem opField_packWord (op : Byte) (a : Bool) (low : Half) : opField (packWord op a low) = op := by
  ext i hi
  simp only [opField, packWord, BitVec.getElem_extractLsb', BitVec.getLsbD_append]
  rw [if_neg (by omega), if_neg (by omega), if_neg (by omega)]
  rw [show 24 + i - 16 - 1 - 7 = i by omega, BitVec.getLsbD_eq_getElem hi]

@[simp] theorem aField_packWord (op : Byte) (a : Bool) (low : Half) : aField (packWord op a low) = a := by
  rw [aField, packWord, BitVec.getLsbD_append, if_neg (by omega), BitVec.getLsbD_append, if_pos (by omega)]
  simp

@[simp] theorem nField_packWord (op : Byte) (a : Bool) (low : Half) : nField (packWord op a low) = low := by
  ext i hi
  simp only [nField, packWord, BitVec.getElem_extractLsb', BitVec.getLsbD_append, Nat.zero_add]
  rw [if_pos hi, BitVec.getLsbD_eq_getElem hi]

@[simp] theorem bField_packWord (op : Byte) (a : Bool) (b : Byte) :
    bField (packWord op a (b.zeroExtend 16)) = b := by
  ext i hi
  simp only [bField, packWord, BitVec.getElem_extractLsb', BitVec.getLsbD_append, Nat.zero_add]
  rw [if_pos (by omega)]
  simp [hi]
  omega

end Sys2Proof.Laws
end

