-- ==== Sys2Proof/Laws/Events.lean ====
section
/-! SUPPORT. What the rules of the device's events and of the ticks leave alone, one lemma per field. -/

namespace Sys2Proof.Laws

open Sys2Proof.Machine

/-! ### rxByte -/

@[simp] theorem rxByte_conn (b : Byte) (s : State) : (rxByte b s).conn = s.conn := by
  unfold rxByte; repeat' split
  all_goals rfl

@[simp] theorem rxByte_accHi (b : Byte) (s : State) : (rxByte b s).accHi = s.accHi := by
  unfold rxByte; repeat' split
  all_goals rfl

@[simp] theorem rxByte_accLo (b : Byte) (s : State) : (rxByte b s).accLo = s.accLo := by
  unfold rxByte; repeat' split
  all_goals rfl

@[simp] theorem rxByte_txbuf (b : Byte) (s : State) : (rxByte b s).txbuf = s.txbuf := by
  unfold rxByte; repeat' split
  all_goals rfl

@[simp] theorem rxByte_txLen (b : Byte) (s : State) : (rxByte b s).txLen = s.txLen := by
  unfold rxByte; repeat' split
  all_goals rfl

@[simp] theorem rxByte_rxbuf (b : Byte) (s : State) : (rxByte b s).rxbuf = s.rxbuf := by
  unfold rxByte; repeat' split
  all_goals rfl

@[simp] theorem rxByte_rxLen (b : Byte) (s : State) : (rxByte b s).rxLen = s.rxLen := by
  unfold rxByte; repeat' split
  all_goals rfl

@[simp] theorem rxByte_rxExpect (b : Byte) (s : State) : (rxByte b s).rxExpect = s.rxExpect := by
  unfold rxByte; repeat' split
  all_goals rfl

@[simp] theorem rxByte_phase (b : Byte) (s : State) : (rxByte b s).phase = s.phase := by
  unfold rxByte; repeat' split
  all_goals rfl

@[simp] theorem rxByte_tmr (b : Byte) (s : State) : (rxByte b s).tmr = s.tmr := by
  unfold rxByte; repeat' split
  all_goals rfl

@[simp] theorem rxByte_curTransfer (b : Byte) (s : State) : (rxByte b s).curTransfer = s.curTransfer := by
  unfold rxByte; repeat' split
  all_goals rfl

@[simp] theorem rxByte_curExpected (b : Byte) (s : State) : (rxByte b s).curExpected = s.curExpected := by
  unfold rxByte; repeat' split
  all_goals rfl

@[simp] theorem rxByte_txShadow (b : Byte) (s : State) : (rxByte b s).txShadow = s.txShadow := by
  unfold rxByte; repeat' split
  all_goals rfl

@[simp] theorem rxByte_err (b : Byte) (s : State) : (rxByte b s).err = s.err := by
  unfold rxByte; repeat' split
  all_goals rfl

@[simp] theorem rxByte_monOvf (b : Byte) (s : State) : (rxByte b s).monOvf = s.monOvf := by
  unfold rxByte; repeat' split
  all_goals rfl

@[simp] theorem rxByte_monErr (b : Byte) (s : State) : (rxByte b s).monErr = s.monErr := by
  unfold rxByte; repeat' split
  all_goals rfl

@[simp] theorem rxByte_monState (b : Byte) (s : State) : (rxByte b s).monState = s.monState := by
  unfold rxByte; repeat' split
  all_goals rfl

@[simp] theorem rxByte_monFilter (b : Byte) (s : State) : (rxByte b s).monFilter = s.monFilter := by
  unfold rxByte; repeat' split
  all_goals rfl

@[simp] theorem rxByte_monStopReq (b : Byte) (s : State) : (rxByte b s).monStopReq = s.monStopReq := by
  unfold rxByte; repeat' split
  all_goals rfl

@[simp] theorem rxByte_monBuf (b : Byte) (s : State) : (rxByte b s).monBuf = s.monBuf := by
  unfold rxByte; repeat' split
  all_goals rfl

@[simp] theorem rxByte_monOvfPend (b : Byte) (s : State) : (rxByte b s).monOvfPend = s.monOvfPend := by
  unfold rxByte; repeat' split
  all_goals rfl

@[simp] theorem rxByte_mtmr (b : Byte) (s : State) : (rxByte b s).mtmr = s.mtmr := by
  unfold rxByte; repeat' split
  all_goals rfl

@[simp] theorem rxByte_wire (b : Byte) (s : State) : (rxByte b s).wire = s.wire := by
  unfold rxByte; repeat' split
  all_goals rfl

@[simp] theorem rxByte_reports (b : Byte) (s : State) : (rxByte b s).reports = s.reports := by
  unfold rxByte; repeat' split
  all_goals rfl

@[simp] theorem rxByte_trace (b : Byte) (s : State) : (rxByte b s).trace = s.trace := by
  unfold rxByte; repeat' split
  all_goals rfl

@[simp] theorem rxByte_devOps (b : Byte) (s : State) : (rxByte b s).devOps = s.devOps := by
  unfold rxByte; repeat' split
  all_goals rfl

@[simp] theorem rxByte_bus (b : Byte) (s : State) : (rxByte b s).bus = s.bus := by
  unfold rxByte; repeat' split
  all_goals rfl

@[simp] theorem rxByte_cfg (b : Byte) (s : State) : (rxByte b s).cfg = s.cfg := by
  unfold rxByte; repeat' split
  all_goals rfl

@[simp] theorem rxByte_inputs (b : Byte) (s : State) : (rxByte b s).inputs = s.inputs := by
  unfold rxByte; repeat' split
  all_goals rfl

@[simp] theorem rxByte_held (b : Byte) (s : State) : (rxByte b s).held = s.held := by
  unfold rxByte; repeat' split
  all_goals rfl

@[simp] theorem rxByte_openAnswer (b : Byte) (s : State) : (rxByte b s).openAnswer = s.openAnswer := by
  unfold rxByte; repeat' split
  all_goals rfl

@[simp] theorem rxByte_draws (b : Byte) (s : State) : (rxByte b s).draws = s.draws := by
  unfold rxByte; repeat' split
  all_goals rfl

/-! ### rxErrorTransport -/

@[simp] theorem rxErrorTransport_conn (s : State) : (rxErrorTransport s).conn = s.conn := by
  unfold rxErrorTransport; split <;> simp

@[simp] theorem rxErrorTransport_accHi (s : State) : (rxErrorTransport s).accHi = s.accHi := by
  unfold rxErrorTransport; split <;> simp

@[simp] theorem rxErrorTransport_accLo (s : State) : (rxErrorTransport s).accLo = s.accLo := by
  unfold rxErrorTransport; split <;> simp

@[simp] theorem rxErrorTransport_txbuf (s : State) : (rxErrorTransport s).txbuf = s.txbuf := by
  unfold rxErrorTransport; split <;> simp

@[simp] theorem rxErrorTransport_txLen (s : State) : (rxErrorTransport s).txLen = s.txLen := by
  unfold rxErrorTransport; split <;> simp

@[simp] theorem rxErrorTransport_rxbuf (s : State) : (rxErrorTransport s).rxbuf = s.rxbuf := by
  unfold rxErrorTransport; split <;> simp

@[simp] theorem rxErrorTransport_rxLen (s : State) : (rxErrorTransport s).rxLen = s.rxLen := by
  unfold rxErrorTransport; split <;> simp

@[simp] theorem rxErrorTransport_rxExpect (s : State) : (rxErrorTransport s).rxExpect = s.rxExpect := by
  unfold rxErrorTransport; split <;> simp

@[simp] theorem rxErrorTransport_rxFifo (s : State) : (rxErrorTransport s).rxFifo = s.rxFifo := by
  unfold rxErrorTransport; split <;> simp

@[simp] theorem rxErrorTransport_rxOvr (s : State) : (rxErrorTransport s).rxOvr = s.rxOvr := by
  unfold rxErrorTransport; split <;> simp

@[simp] theorem rxErrorTransport_monOvf (s : State) : (rxErrorTransport s).monOvf = s.monOvf := by
  unfold rxErrorTransport; split <;> simp

@[simp] theorem rxErrorTransport_monErr (s : State) : (rxErrorTransport s).monErr = s.monErr := by
  unfold rxErrorTransport; split <;> simp

@[simp] theorem rxErrorTransport_monState (s : State) : (rxErrorTransport s).monState = s.monState := by
  unfold rxErrorTransport; split <;> simp

@[simp] theorem rxErrorTransport_monFilter (s : State) : (rxErrorTransport s).monFilter = s.monFilter := by
  unfold rxErrorTransport; split <;> simp

@[simp] theorem rxErrorTransport_monStopReq (s : State) : (rxErrorTransport s).monStopReq = s.monStopReq := by
  unfold rxErrorTransport; split <;> simp

@[simp] theorem rxErrorTransport_monBuf (s : State) : (rxErrorTransport s).monBuf = s.monBuf := by
  unfold rxErrorTransport; split <;> simp

@[simp] theorem rxErrorTransport_monOvfPend (s : State) : (rxErrorTransport s).monOvfPend = s.monOvfPend := by
  unfold rxErrorTransport; split <;> simp

@[simp] theorem rxErrorTransport_mtmr (s : State) : (rxErrorTransport s).mtmr = s.mtmr := by
  unfold rxErrorTransport; split <;> simp

@[simp] theorem rxErrorTransport_wire (s : State) : (rxErrorTransport s).wire = s.wire := by
  unfold rxErrorTransport; split <;> simp

@[simp] theorem rxErrorTransport_reports (s : State) : (rxErrorTransport s).reports = s.reports := by
  unfold rxErrorTransport; split <;> simp

@[simp] theorem rxErrorTransport_devOps (s : State) : (rxErrorTransport s).devOps = s.devOps := by
  unfold rxErrorTransport; split <;> simp

@[simp] theorem rxErrorTransport_bus (s : State) : (rxErrorTransport s).bus = s.bus := by
  unfold rxErrorTransport; split <;> simp

@[simp] theorem rxErrorTransport_cfg (s : State) : (rxErrorTransport s).cfg = s.cfg := by
  unfold rxErrorTransport; split <;> simp

@[simp] theorem rxErrorTransport_inputs (s : State) : (rxErrorTransport s).inputs = s.inputs := by
  unfold rxErrorTransport; split <;> simp

@[simp] theorem rxErrorTransport_held (s : State) : (rxErrorTransport s).held = s.held := by
  unfold rxErrorTransport; split <;> simp

@[simp] theorem rxErrorTransport_openAnswer (s : State) : (rxErrorTransport s).openAnswer = s.openAnswer := by
  unfold rxErrorTransport; split <;> simp

/-! ### tickTransport -/

@[simp] theorem tickTransport_conn (s : State) : (tickTransport s).conn = s.conn := by
  unfold tickTransport; dsimp only; repeat' split
  all_goals simp

@[simp] theorem tickTransport_accHi (s : State) : (tickTransport s).accHi = s.accHi := by
  unfold tickTransport; dsimp only; repeat' split
  all_goals simp

@[simp] theorem tickTransport_accLo (s : State) : (tickTransport s).accLo = s.accLo := by
  unfold tickTransport; dsimp only; repeat' split
  all_goals simp

@[simp] theorem tickTransport_txbuf (s : State) : (tickTransport s).txbuf = s.txbuf := by
  unfold tickTransport; dsimp only; repeat' split
  all_goals simp

@[simp] theorem tickTransport_txLen (s : State) : (tickTransport s).txLen = s.txLen := by
  unfold tickTransport; dsimp only; repeat' split
  all_goals simp

@[simp] theorem tickTransport_monOvf (s : State) : (tickTransport s).monOvf = s.monOvf := by
  unfold tickTransport; dsimp only; repeat' split
  all_goals simp

@[simp] theorem tickTransport_monErr (s : State) : (tickTransport s).monErr = s.monErr := by
  unfold tickTransport; dsimp only; repeat' split
  all_goals simp

@[simp] theorem tickTransport_monState (s : State) : (tickTransport s).monState = s.monState := by
  unfold tickTransport; dsimp only; repeat' split
  all_goals simp

@[simp] theorem tickTransport_monFilter (s : State) : (tickTransport s).monFilter = s.monFilter := by
  unfold tickTransport; dsimp only; repeat' split
  all_goals simp

@[simp] theorem tickTransport_monStopReq (s : State) : (tickTransport s).monStopReq = s.monStopReq := by
  unfold tickTransport; dsimp only; repeat' split
  all_goals simp

@[simp] theorem tickTransport_monBuf (s : State) : (tickTransport s).monBuf = s.monBuf := by
  unfold tickTransport; dsimp only; repeat' split
  all_goals simp

@[simp] theorem tickTransport_monOvfPend (s : State) : (tickTransport s).monOvfPend = s.monOvfPend := by
  unfold tickTransport; dsimp only; repeat' split
  all_goals simp

@[simp] theorem tickTransport_mtmr (s : State) : (tickTransport s).mtmr = s.mtmr := by
  unfold tickTransport; dsimp only; repeat' split
  all_goals simp

@[simp] theorem tickTransport_wire (s : State) : (tickTransport s).wire = s.wire := by
  unfold tickTransport; dsimp only; repeat' split
  all_goals simp

@[simp] theorem tickTransport_reports (s : State) : (tickTransport s).reports = s.reports := by
  unfold tickTransport; dsimp only; repeat' split
  all_goals simp

@[simp] theorem tickTransport_devOps (s : State) : (tickTransport s).devOps = s.devOps := by
  unfold tickTransport; dsimp only; repeat' split
  all_goals simp

@[simp] theorem tickTransport_bus (s : State) : (tickTransport s).bus = s.bus := by
  unfold tickTransport; dsimp only; repeat' split
  all_goals simp

@[simp] theorem tickTransport_cfg (s : State) : (tickTransport s).cfg = s.cfg := by
  unfold tickTransport; dsimp only; repeat' split
  all_goals simp

@[simp] theorem tickTransport_inputs (s : State) : (tickTransport s).inputs = s.inputs := by
  unfold tickTransport; dsimp only; repeat' split
  all_goals simp

@[simp] theorem tickTransport_held (s : State) : (tickTransport s).held = s.held := by
  unfold tickTransport; dsimp only; repeat' split
  all_goals simp

@[simp] theorem tickTransport_openAnswer (s : State) : (tickTransport s).openAnswer = s.openAnswer := by
  unfold tickTransport; dsimp only; repeat' split
  all_goals simp

/-! ### nextAttempt -/

@[simp] theorem nextAttempt_conn (s : State) : (nextAttempt s).conn = s.conn := by
  unfold nextAttempt; split <;> rfl

@[simp] theorem nextAttempt_accHi (s : State) : (nextAttempt s).accHi = s.accHi := by
  unfold nextAttempt; split <;> rfl

@[simp] theorem nextAttempt_accLo (s : State) : (nextAttempt s).accLo = s.accLo := by
  unfold nextAttempt; split <;> rfl

@[simp] theorem nextAttempt_txbuf (s : State) : (nextAttempt s).txbuf = s.txbuf := by
  unfold nextAttempt; split <;> rfl

@[simp] theorem nextAttempt_txLen (s : State) : (nextAttempt s).txLen = s.txLen := by
  unfold nextAttempt; split <;> rfl

@[simp] theorem nextAttempt_rxbuf (s : State) : (nextAttempt s).rxbuf = s.rxbuf := by
  unfold nextAttempt; split <;> rfl

@[simp] theorem nextAttempt_rxLen (s : State) : (nextAttempt s).rxLen = s.rxLen := by
  unfold nextAttempt; split <;> rfl

@[simp] theorem nextAttempt_rxExpect (s : State) : (nextAttempt s).rxExpect = s.rxExpect := by
  unfold nextAttempt; split <;> rfl

@[simp] theorem nextAttempt_phase (s : State) : (nextAttempt s).phase = s.phase := by
  unfold nextAttempt; split <;> rfl

@[simp] theorem nextAttempt_tmr (s : State) : (nextAttempt s).tmr = s.tmr := by
  unfold nextAttempt; split <;> rfl

@[simp] theorem nextAttempt_curTransfer (s : State) : (nextAttempt s).curTransfer = s.curTransfer := by
  unfold nextAttempt; split <;> rfl

@[simp] theorem nextAttempt_curExpected (s : State) : (nextAttempt s).curExpected = s.curExpected := by
  unfold nextAttempt; split <;> rfl

@[simp] theorem nextAttempt_txShadow (s : State) : (nextAttempt s).txShadow = s.txShadow := by
  unfold nextAttempt; split <;> rfl

@[simp] theorem nextAttempt_rxFifo (s : State) : (nextAttempt s).rxFifo = s.rxFifo := by
  unfold nextAttempt; split <;> rfl

@[simp] theorem nextAttempt_err (s : State) : (nextAttempt s).err = s.err := by
  unfold nextAttempt; split <;> rfl

@[simp] theorem nextAttempt_rxOvr (s : State) : (nextAttempt s).rxOvr = s.rxOvr := by
  unfold nextAttempt; split <;> rfl

@[simp] theorem nextAttempt_monOvf (s : State) : (nextAttempt s).monOvf = s.monOvf := by
  unfold nextAttempt; split <;> rfl

@[simp] theorem nextAttempt_monErr (s : State) : (nextAttempt s).monErr = s.monErr := by
  unfold nextAttempt; split <;> rfl

@[simp] theorem nextAttempt_monFilter (s : State) : (nextAttempt s).monFilter = s.monFilter := by
  unfold nextAttempt; split <;> rfl

@[simp] theorem nextAttempt_wire (s : State) : (nextAttempt s).wire = s.wire := by
  unfold nextAttempt; split <;> rfl

@[simp] theorem nextAttempt_reports (s : State) : (nextAttempt s).reports = s.reports := by
  unfold nextAttempt; split <;> rfl

@[simp] theorem nextAttempt_trace (s : State) : (nextAttempt s).trace = s.trace := by
  unfold nextAttempt; split <;> rfl

@[simp] theorem nextAttempt_devOps (s : State) : (nextAttempt s).devOps = s.devOps := by
  unfold nextAttempt; split <;> rfl

@[simp] theorem nextAttempt_bus (s : State) : (nextAttempt s).bus = s.bus := by
  unfold nextAttempt; split <;> rfl

@[simp] theorem nextAttempt_cfg (s : State) : (nextAttempt s).cfg = s.cfg := by
  unfold nextAttempt; split <;> rfl

@[simp] theorem nextAttempt_inputs (s : State) : (nextAttempt s).inputs = s.inputs := by
  unfold nextAttempt; split <;> rfl

@[simp] theorem nextAttempt_held (s : State) : (nextAttempt s).held = s.held := by
  unfold nextAttempt; split <;> rfl

@[simp] theorem nextAttempt_openAnswer (s : State) : (nextAttempt s).openAnswer = s.openAnswer := by
  unfold nextAttempt; split <;> rfl

@[simp] theorem nextAttempt_draws (s : State) : (nextAttempt s).draws = s.draws := by
  unfold nextAttempt; split <;> rfl

/-! ### closeFrame -/

@[simp] theorem closeFrame_conn (s : State) : (closeFrame s).conn = s.conn := by
  unfold closeFrame; dsimp only; repeat' split
  all_goals rfl

@[simp] theorem closeFrame_accHi (s : State) : (closeFrame s).accHi = s.accHi := by
  unfold closeFrame; dsimp only; repeat' split
  all_goals rfl

@[simp] theorem closeFrame_accLo (s : State) : (closeFrame s).accLo = s.accLo := by
  unfold closeFrame; dsimp only; repeat' split
  all_goals rfl

@[simp] theorem closeFrame_txbuf (s : State) : (closeFrame s).txbuf = s.txbuf := by
  unfold closeFrame; dsimp only; repeat' split
  all_goals rfl

@[simp] theorem closeFrame_txLen (s : State) : (closeFrame s).txLen = s.txLen := by
  unfold closeFrame; dsimp only; repeat' split
  all_goals rfl

@[simp] theorem closeFrame_rxbuf (s : State) : (closeFrame s).rxbuf = s.rxbuf := by
  unfold closeFrame; dsimp only; repeat' split
  all_goals rfl

@[simp] theorem closeFrame_rxLen (s : State) : (closeFrame s).rxLen = s.rxLen := by
  unfold closeFrame; dsimp only; repeat' split
  all_goals rfl

@[simp] theorem closeFrame_rxExpect (s : State) : (closeFrame s).rxExpect = s.rxExpect := by
  unfold closeFrame; dsimp only; repeat' split
  all_goals rfl

@[simp] theorem closeFrame_phase (s : State) : (closeFrame s).phase = s.phase := by
  unfold closeFrame; dsimp only; repeat' split
  all_goals rfl

@[simp] theorem closeFrame_tmr (s : State) : (closeFrame s).tmr = s.tmr := by
  unfold closeFrame; dsimp only; repeat' split
  all_goals rfl

@[simp] theorem closeFrame_curTransfer (s : State) : (closeFrame s).curTransfer = s.curTransfer := by
  unfold closeFrame; dsimp only; repeat' split
  all_goals rfl

@[simp] theorem closeFrame_curExpected (s : State) : (closeFrame s).curExpected = s.curExpected := by
  unfold closeFrame; dsimp only; repeat' split
  all_goals rfl

@[simp] theorem closeFrame_txShadow (s : State) : (closeFrame s).txShadow = s.txShadow := by
  unfold closeFrame; dsimp only; repeat' split
  all_goals rfl

@[simp] theorem closeFrame_rxFifo (s : State) : (closeFrame s).rxFifo = s.rxFifo := by
  unfold closeFrame; dsimp only; repeat' split
  all_goals rfl

@[simp] theorem closeFrame_err (s : State) : (closeFrame s).err = s.err := by
  unfold closeFrame; dsimp only; repeat' split
  all_goals rfl

@[simp] theorem closeFrame_rxOvr (s : State) : (closeFrame s).rxOvr = s.rxOvr := by
  unfold closeFrame; dsimp only; repeat' split
  all_goals rfl

@[simp] theorem closeFrame_monErr (s : State) : (closeFrame s).monErr = s.monErr := by
  unfold closeFrame; dsimp only; repeat' split
  all_goals rfl

@[simp] theorem closeFrame_monState (s : State) : (closeFrame s).monState = s.monState := by
  unfold closeFrame; dsimp only; repeat' split
  all_goals rfl

@[simp] theorem closeFrame_monFilter (s : State) : (closeFrame s).monFilter = s.monFilter := by
  unfold closeFrame; dsimp only; repeat' split
  all_goals rfl

@[simp] theorem closeFrame_monStopReq (s : State) : (closeFrame s).monStopReq = s.monStopReq := by
  unfold closeFrame; dsimp only; repeat' split
  all_goals rfl

@[simp] theorem closeFrame_mtmr (s : State) : (closeFrame s).mtmr = s.mtmr := by
  unfold closeFrame; dsimp only; repeat' split
  all_goals rfl

@[simp] theorem closeFrame_wire (s : State) : (closeFrame s).wire = s.wire := by
  unfold closeFrame; dsimp only; repeat' split
  all_goals rfl

@[simp] theorem closeFrame_trace (s : State) : (closeFrame s).trace = s.trace := by
  unfold closeFrame; dsimp only; repeat' split
  all_goals rfl

@[simp] theorem closeFrame_devOps (s : State) : (closeFrame s).devOps = s.devOps := by
  unfold closeFrame; dsimp only; repeat' split
  all_goals rfl

@[simp] theorem closeFrame_bus (s : State) : (closeFrame s).bus = s.bus := by
  unfold closeFrame; dsimp only; repeat' split
  all_goals rfl

@[simp] theorem closeFrame_cfg (s : State) : (closeFrame s).cfg = s.cfg := by
  unfold closeFrame; dsimp only; repeat' split
  all_goals rfl

@[simp] theorem closeFrame_inputs (s : State) : (closeFrame s).inputs = s.inputs := by
  unfold closeFrame; dsimp only; repeat' split
  all_goals rfl

@[simp] theorem closeFrame_held (s : State) : (closeFrame s).held = s.held := by
  unfold closeFrame; dsimp only; repeat' split
  all_goals rfl

@[simp] theorem closeFrame_openAnswer (s : State) : (closeFrame s).openAnswer = s.openAnswer := by
  unfold closeFrame; dsimp only; repeat' split
  all_goals rfl

@[simp] theorem closeFrame_draws (s : State) : (closeFrame s).draws = s.draws := by
  unfold closeFrame; dsimp only; repeat' split
  all_goals rfl

/-! ### tickMonitor -/

@[simp] theorem tickMonitor_conn (s : State) : (tickMonitor s).conn = s.conn := by
  unfold tickMonitor; dsimp only; repeat' split
  all_goals simp

@[simp] theorem tickMonitor_accHi (s : State) : (tickMonitor s).accHi = s.accHi := by
  unfold tickMonitor; dsimp only; repeat' split
  all_goals simp

@[simp] theorem tickMonitor_accLo (s : State) : (tickMonitor s).accLo = s.accLo := by
  unfold tickMonitor; dsimp only; repeat' split
  all_goals simp

@[simp] theorem tickMonitor_txbuf (s : State) : (tickMonitor s).txbuf = s.txbuf := by
  unfold tickMonitor; dsimp only; repeat' split
  all_goals simp

@[simp] theorem tickMonitor_txLen (s : State) : (tickMonitor s).txLen = s.txLen := by
  unfold tickMonitor; dsimp only; repeat' split
  all_goals simp

@[simp] theorem tickMonitor_rxbuf (s : State) : (tickMonitor s).rxbuf = s.rxbuf := by
  unfold tickMonitor; dsimp only; repeat' split
  all_goals simp

@[simp] theorem tickMonitor_rxLen (s : State) : (tickMonitor s).rxLen = s.rxLen := by
  unfold tickMonitor; dsimp only; repeat' split
  all_goals simp

@[simp] theorem tickMonitor_rxExpect (s : State) : (tickMonitor s).rxExpect = s.rxExpect := by
  unfold tickMonitor; dsimp only; repeat' split
  all_goals simp

@[simp] theorem tickMonitor_phase (s : State) : (tickMonitor s).phase = s.phase := by
  unfold tickMonitor; dsimp only; repeat' split
  all_goals simp

@[simp] theorem tickMonitor_tmr (s : State) : (tickMonitor s).tmr = s.tmr := by
  unfold tickMonitor; dsimp only; repeat' split
  all_goals simp

@[simp] theorem tickMonitor_curTransfer (s : State) : (tickMonitor s).curTransfer = s.curTransfer := by
  unfold tickMonitor; dsimp only; repeat' split
  all_goals simp

@[simp] theorem tickMonitor_curExpected (s : State) : (tickMonitor s).curExpected = s.curExpected := by
  unfold tickMonitor; dsimp only; repeat' split
  all_goals simp

@[simp] theorem tickMonitor_txShadow (s : State) : (tickMonitor s).txShadow = s.txShadow := by
  unfold tickMonitor; dsimp only; repeat' split
  all_goals simp

@[simp] theorem tickMonitor_rxFifo (s : State) : (tickMonitor s).rxFifo = s.rxFifo := by
  unfold tickMonitor; dsimp only; repeat' split
  all_goals simp

@[simp] theorem tickMonitor_err (s : State) : (tickMonitor s).err = s.err := by
  unfold tickMonitor; dsimp only; repeat' split
  all_goals simp

@[simp] theorem tickMonitor_rxOvr (s : State) : (tickMonitor s).rxOvr = s.rxOvr := by
  unfold tickMonitor; dsimp only; repeat' split
  all_goals simp

@[simp] theorem tickMonitor_monErr (s : State) : (tickMonitor s).monErr = s.monErr := by
  unfold tickMonitor; dsimp only; repeat' split
  all_goals simp

@[simp] theorem tickMonitor_monFilter (s : State) : (tickMonitor s).monFilter = s.monFilter := by
  unfold tickMonitor; dsimp only; repeat' split
  all_goals simp

@[simp] theorem tickMonitor_wire (s : State) : (tickMonitor s).wire = s.wire := by
  unfold tickMonitor; dsimp only; repeat' split
  all_goals simp

@[simp] theorem tickMonitor_trace (s : State) : (tickMonitor s).trace = s.trace := by
  unfold tickMonitor; dsimp only; repeat' split
  all_goals simp

@[simp] theorem tickMonitor_devOps (s : State) : (tickMonitor s).devOps = s.devOps := by
  unfold tickMonitor; dsimp only; repeat' split
  all_goals simp

@[simp] theorem tickMonitor_bus (s : State) : (tickMonitor s).bus = s.bus := by
  unfold tickMonitor; dsimp only; repeat' split
  all_goals simp

@[simp] theorem tickMonitor_cfg (s : State) : (tickMonitor s).cfg = s.cfg := by
  unfold tickMonitor; dsimp only; repeat' split
  all_goals simp

@[simp] theorem tickMonitor_inputs (s : State) : (tickMonitor s).inputs = s.inputs := by
  unfold tickMonitor; dsimp only; repeat' split
  all_goals simp

@[simp] theorem tickMonitor_held (s : State) : (tickMonitor s).held = s.held := by
  unfold tickMonitor; dsimp only; repeat' split
  all_goals simp

@[simp] theorem tickMonitor_openAnswer (s : State) : (tickMonitor s).openAnswer = s.openAnswer := by
  unfold tickMonitor; dsimp only; repeat' split
  all_goals simp

@[simp] theorem tickMonitor_draws (s : State) : (tickMonitor s).draws = s.draws := by
  unfold tickMonitor; dsimp only; repeat' split
  all_goals simp

/-! ### rxErrorMonitor -/

@[simp] theorem rxErrorMonitor_conn (s : State) : (rxErrorMonitor s).conn = s.conn := by
  unfold rxErrorMonitor; repeat' split
  all_goals rfl

@[simp] theorem rxErrorMonitor_accHi (s : State) : (rxErrorMonitor s).accHi = s.accHi := by
  unfold rxErrorMonitor; repeat' split
  all_goals rfl

@[simp] theorem rxErrorMonitor_accLo (s : State) : (rxErrorMonitor s).accLo = s.accLo := by
  unfold rxErrorMonitor; repeat' split
  all_goals rfl

@[simp] theorem rxErrorMonitor_txbuf (s : State) : (rxErrorMonitor s).txbuf = s.txbuf := by
  unfold rxErrorMonitor; repeat' split
  all_goals rfl

@[simp] theorem rxErrorMonitor_txLen (s : State) : (rxErrorMonitor s).txLen = s.txLen := by
  unfold rxErrorMonitor; repeat' split
  all_goals rfl

@[simp] theorem rxErrorMonitor_rxbuf (s : State) : (rxErrorMonitor s).rxbuf = s.rxbuf := by
  unfold rxErrorMonitor; repeat' split
  all_goals rfl

@[simp] theorem rxErrorMonitor_rxLen (s : State) : (rxErrorMonitor s).rxLen = s.rxLen := by
  unfold rxErrorMonitor; repeat' split
  all_goals rfl

@[simp] theorem rxErrorMonitor_rxExpect (s : State) : (rxErrorMonitor s).rxExpect = s.rxExpect := by
  unfold rxErrorMonitor; repeat' split
  all_goals rfl

@[simp] theorem rxErrorMonitor_phase (s : State) : (rxErrorMonitor s).phase = s.phase := by
  unfold rxErrorMonitor; repeat' split
  all_goals rfl

@[simp] theorem rxErrorMonitor_tmr (s : State) : (rxErrorMonitor s).tmr = s.tmr := by
  unfold rxErrorMonitor; repeat' split
  all_goals rfl

@[simp] theorem rxErrorMonitor_curTransfer (s : State) : (rxErrorMonitor s).curTransfer = s.curTransfer := by
  unfold rxErrorMonitor; repeat' split
  all_goals rfl

@[simp] theorem rxErrorMonitor_curExpected (s : State) : (rxErrorMonitor s).curExpected = s.curExpected := by
  unfold rxErrorMonitor; repeat' split
  all_goals rfl

@[simp] theorem rxErrorMonitor_txShadow (s : State) : (rxErrorMonitor s).txShadow = s.txShadow := by
  unfold rxErrorMonitor; repeat' split
  all_goals rfl

@[simp] theorem rxErrorMonitor_rxFifo (s : State) : (rxErrorMonitor s).rxFifo = s.rxFifo := by
  unfold rxErrorMonitor; repeat' split
  all_goals rfl

@[simp] theorem rxErrorMonitor_err (s : State) : (rxErrorMonitor s).err = s.err := by
  unfold rxErrorMonitor; repeat' split
  all_goals rfl

@[simp] theorem rxErrorMonitor_rxOvr (s : State) : (rxErrorMonitor s).rxOvr = s.rxOvr := by
  unfold rxErrorMonitor; repeat' split
  all_goals rfl

@[simp] theorem rxErrorMonitor_monOvf (s : State) : (rxErrorMonitor s).monOvf = s.monOvf := by
  unfold rxErrorMonitor; repeat' split
  all_goals rfl

@[simp] theorem rxErrorMonitor_monFilter (s : State) : (rxErrorMonitor s).monFilter = s.monFilter := by
  unfold rxErrorMonitor; repeat' split
  all_goals rfl

@[simp] theorem rxErrorMonitor_wire (s : State) : (rxErrorMonitor s).wire = s.wire := by
  unfold rxErrorMonitor; repeat' split
  all_goals rfl

@[simp] theorem rxErrorMonitor_trace (s : State) : (rxErrorMonitor s).trace = s.trace := by
  unfold rxErrorMonitor; repeat' split
  all_goals rfl

@[simp] theorem rxErrorMonitor_devOps (s : State) : (rxErrorMonitor s).devOps = s.devOps := by
  unfold rxErrorMonitor; repeat' split
  all_goals rfl

@[simp] theorem rxErrorMonitor_bus (s : State) : (rxErrorMonitor s).bus = s.bus := by
  unfold rxErrorMonitor; repeat' split
  all_goals rfl

@[simp] theorem rxErrorMonitor_cfg (s : State) : (rxErrorMonitor s).cfg = s.cfg := by
  unfold rxErrorMonitor; repeat' split
  all_goals rfl

@[simp] theorem rxErrorMonitor_inputs (s : State) : (rxErrorMonitor s).inputs = s.inputs := by
  unfold rxErrorMonitor; repeat' split
  all_goals rfl

@[simp] theorem rxErrorMonitor_held (s : State) : (rxErrorMonitor s).held = s.held := by
  unfold rxErrorMonitor; repeat' split
  all_goals rfl

@[simp] theorem rxErrorMonitor_openAnswer (s : State) : (rxErrorMonitor s).openAnswer = s.openAnswer := by
  unfold rxErrorMonitor; repeat' split
  all_goals rfl

@[simp] theorem rxErrorMonitor_draws (s : State) : (rxErrorMonitor s).draws = s.draws := by
  unfold rxErrorMonitor; repeat' split
  all_goals rfl

end Sys2Proof.Laws
end

