-- ==== Sys2Proof/Laws/PerInstr.lean ====
section
/-! SUPPORT. What holds of each command as syntax, one lemma per constructor. -/

/-- The encoding of a command carries its opcode in `OP` (30_encoding.md R90, R94), writes no bit its format ignores (R91,
R98), and the command is well formed. -/
def Sys2Proof.Laws.TableEncoding.Statement (i : Sys2Proof.Instr) : Prop :=
  Sys2Proof.opField (Sys2Proof.encode i) = i.opcode ∧ Sys2Proof.encode i &&& ~~~i.usedBits = 0 ∧ i.wf = true

namespace Sys2Proof.Laws.TableEncoding

theorem unused_b (op : Byte) (b : Byte) : packWord op false (b.zeroExtend 16) &&& ~~~(0xFF0000FF : Word) = 0 := by
  ext i hi
  simp only [packWord, BitVec.getElem_and, BitVec.getElem_not, BitVec.getElem_append]
  interval_cases i <;> simp

theorem unused_n (op : Byte) (n : Half) : packWord op false n &&& ~~~(0xFF00FFFF : Word) = 0 := by
  ext i hi
  simp only [packWord, BitVec.getElem_and, BitVec.getElem_not, BitVec.getElem_append]
  interval_cases i <;> simp

theorem unused_an (op : Byte) (a : Bool) (n : Half) : packWord op a n &&& ~~~(0xFF01FFFF : Word) = 0 := by
  ext i hi
  simp only [packWord, BitVec.getElem_and, BitVec.getElem_not, BitVec.getElem_append]
  interval_cases i <;> simp

theorem nop : Statement .nop := ⟨by decide, by decide, rfl⟩
theorem openPort (port : Byte) : Statement (.openPort port) := ⟨opField_packWord .., unused_b 0x01 port, rfl⟩
theorem close : Statement .close := ⟨by decide, by decide, rfl⟩
theorem clearFlags : Statement .clearFlags := ⟨by decide, by decide, rfl⟩
theorem crcInit : Statement .crcInit := ⟨by decide, by decide, rfl⟩
theorem crcByte (b : Byte) : Statement (.crcByte b) := ⟨opField_packWord .., unused_b 0x11 b, rfl⟩
theorem crcTx : Statement .crcTx := ⟨by decide, by decide, rfl⟩
theorem crcCheck : Statement .crcCheck := ⟨by decide, by decide, rfl⟩
theorem send (append : Bool) : Statement (.send append) := by
  cases append <;> exact ⟨by decide, by decide, rfl⟩
theorem receive (expected : Half) : Statement (.receive expected) := ⟨opField_packWord .., unused_n 0x21 expected, rfl⟩
theorem transfer (append : Bool) (expected : Half) : Statement (.transfer append expected) :=
  ⟨opField_packWord .., unused_an 0x22 append expected, rfl⟩
theorem monStart (filter : Byte) : Statement (.monStart filter) := ⟨opField_packWord .., unused_b 0x30 filter, rfl⟩
theorem monStop : Statement .monStop := ⟨by decide, by decide, rfl⟩

end Sys2Proof.Laws.TableEncoding
end

