-- ==== Sys2Proof/Machine/HostProgram.lean ====
section
/-! DEFINITION. The host program lines and the command spelling of 30_encoding.md R98 and R99, as the events they stand
for. A program is written here for agent 0 and its numbers in decimal (DESIGN CHOICE, safe, log entry 17). -/

namespace Sys2Proof.Machine

/-- `WR off, v` (R99). -/
def lineWr (c : Config) (off : Nat) (v : Word) : Event := .host 0 (.write 4 (c.base + off) v)

/-- `RD off` (R99). -/
def lineRd (c : Config) (off : Nat) : Event := .host 0 (.read 4 (c.base + off))

/-- `C <cmd>` expands to `WR 0x000, <word of cmd>` (R99). -/
def lineC (c : Config) (i : Instr) : Event := lineWr c 0x000 (encode i)

/-- The TXBUF writes of `LOADTX`, from entry `k` on (R99). -/
def loadEntries (c : Config) (k : Nat) : List Byte → List Event
  | [] => []
  | b :: bs => lineWr c (0x400 + 4 * k) (b.zeroExtend 32) :: loadEntries c (k + 1) bs

/-- `LOADTX b0 b1 ...` (R99): the TXBUF writes, then TX_LEN. -/
def loadTx (c : Config) (bs : List Byte) : List Event :=
  loadEntries c 0 bs ++ [lineWr c 0x00C (BitVec.ofNat 32 bs.length)]

/-- `TICK xN` (R99). -/
def tickTimes (n : Nat) : List Event := List.replicate n .tick

/-- `WAITIDLE` (R99), a loop of `RD 0x004`: the reads it makes when the successive reads answer the words `answers`. It
goes on while bit 0 (BUSY) of the answer is 1; the last read is the one whose answer is 0 there or is not listed. -/
def waitIdle (c : Config) : List Word → List Event
  | [] => [lineRd c 0x004]
  | v :: answers => lineRd c 0x004 :: (if v.getLsbD 0 then waitIdle c answers else [])

/-- The decimal spelling of a number. -/
def spellNat (n : Nat) : String := toString n

/-- The spelling of a command (R98), its numbers in decimal. -/
def spell : Instr → String
  | .nop => "NOP"
  | .openPort p => "OPEN " ++ spellNat p.toNat
  | .close => "CLOSE"
  | .clearFlags => "CLEAR_FLAGS"
  | .crcInit => "CRC_INIT"
  | .crcByte b => "CRC_BYTE " ++ spellNat b.toNat
  | .crcTx => "CRC_TX"
  | .crcCheck => "CRC_CHECK"
  | .send a => if a then "SEND crc" else "SEND nocrc"
  | .receive n => "RECEIVE " ++ spellNat n.toNat
  | .transfer a n => (if a then "TRANSFER crc, " else "TRANSFER nocrc, ") ++ spellNat n.toNat
  | .monStart f => "MON_START " ++ spellNat f.toNat
  | .monStop => "MON_STOP"

end Sys2Proof.Machine
end

