-- ==== Sys2Proof/Tests/Slice0.lean ====
section
/-! SUPPORT. Tests. The expected values are those of 95_test_vectors.md, whose vector each theorem names, or are read off
the spec's tables. -/

namespace Sys2Proof.Tests

open Sys2Proof.Machine

/-! ### Small states -/

/-- The state of an outcome; the reset state of a stop. -/
def stateOf : Outcome → State
  | .next s => s
  | .fault _ => State.reset
  | .refused _ => State.reset

def isNext : Outcome → Bool
  | .next _ => true
  | .fault _ => false
  | .refused _ => false

/-- `s` with one listed event. -/
def with1 (e : Event) (s : State) : State := { s with inputs := [e] }

/-- One step of `s` on an event. -/
def stepOn (e : Event) (s : State) : State := stateOf (step (with1 e s))

/-- A CMD write by agent 0, with BASE 0. -/
def cmd (w : Word) : Event := .host 0 (.write 4 0 w)

/-- `bs` in the entries of a buffer from 0 on. -/
def bufferOf (bs : List Byte) : Memory := Memory.writeAll [] 0 bs

/-- Open and idle. -/
def opened : State := { State.reset with conn := .opened }

/-- Open and idle with `bs` in TXBUF. -/
def loaded (bs : List Byte) : State := { opened with txbuf := bufferOf bs, txLen := BitVec.ofNat 16 bs.length }

/-- Open and idle with `bs` in RXBUF. -/
def received (bs : List Byte) : State := { opened with rxbuf := bufferOf bs, rxLen := BitVec.ofNat 16 bs.length }

/-- A SEND of `bs` in S_WRITE. -/
def writing (bs : List Byte) : State := { loaded bs with phase := .sWrite, txShadow := bs }

/-- A TRANSFER of `bs` in S_WRITE that expects `n` bytes. -/
def transferring (bs : List Byte) (n : Half) : State :=
  { writing bs with curTransfer := true, curExpected := n }

/-- S_IFD after `k` ticks. -/
def delaying (transfer : Bool) (n : Half) (k : Nat) : State :=
  { opened with phase := .sIfd, tmr := k, curTransfer := transfer, curExpected := n, txShadow := [0x01] }

/-- R_FIXED for `n` bytes, `bs` received, after `k` ticks. -/
def receiving (n : Half) (bs : List Byte) (k : Nat) : State :=
  { received bs with rxExpect := n, phase := .rFixed, tmr := k }

/-- R_SETTLE after `k` ticks with `fifo` buffered. -/
def settling (fifo : List Byte) (k : Nat) : State := { opened with phase := .rSettle, rxFifo := fifo, tmr := k }

/-- The monitor running with filter `f`, the bytes `buf` in its frame and `k` ticks of silence. -/
def monitoring (f : Byte) (buf : List Byte) (k : Nat) : State :=
  { opened with monState := .running, monFilter := f, monBuf := buf, mtmr := k }

/-- `monitoring` with a stop requested. -/
def stopping (buf : List Byte) (k : Nat) : State := { monitoring 0 buf k with monStopReq := true }

/-- `s` with room for `n` bytes in `rx_fifo`. -/
def withFifo (n : Nat) (s : State) : State := { s with cfg := { s.cfg with rxFifoDepth := n } }

/-- `s` with a monitor buffer of `n` bytes. -/
def withMonBuf (n : Nat) (s : State) : State := { s with cfg := { s.cfg with monBufMax := n } }

/-- `s` with VERBOSE true. -/
def verbosely (s : State) : State := { s with cfg := { s.cfg with verbose := true } }

/-! ### WellFormed: one ill-formed configuration for each check (R9, R10) -/

theorem test_wf_default : Config.default.wf = true := by decide

theorem test_wf_intervals :
    Config.wf { Config.default with tRx := 0 } = false ∧ Config.wf { Config.default with tSettle := 0 } = false ∧
      Config.intervalsOk { Config.default with tIfd := 0, tGap := 0 } = false := by decide

theorem test_wf_gap : Config.wf { Config.default with tGap := 24 } = false := by decide

theorem test_wf_fifo :
    Config.wf { Config.default with rxFifoDepth := 0 } = false ∧
      Config.wf { Config.default with rxFifoDepth := 65536 } = false ∧
      Config.wf { Config.default with rxFifoDepth := 65535 } = true := by decide

theorem test_wf_monBuf :
    Config.wf { Config.default with monBufMax := 0 } = false ∧
      Config.wf { Config.default with monBufMax := 65536 } = false ∧
      Config.wf { Config.default with monBufMax := 1 } = true := by decide

/-- At 9600 baud the gap is at least 3646 µs (R10): 4 ticks of 1000 µs hold it and 3 do not. -/
theorem test_wf_baud :
    Config.wf { Config.default with tIfd := 3, tGap := 3 } = false ∧
      Config.wf { Config.default with tIfd := 4, tGap := 4 } = true ∧
      Config.wf { Config.default with baud := 0 } = false := by decide

theorem test_illFormed_is_refused :
    step { State.reset with cfg := { Config.default with tRx := 0 } } = .refused .illFormedConfig := by
  rw [step, if_neg (by decide)]

/-! ### Decode: the fields OP, seven ignored bits, A and the low half, written out in bits (R90 to R94) -/

theorem test_decode_control :
    decode 0b00000000000000000000000000000000 = .cmd .nop ∧
    decode 0b00000001000000000000000010100111 = .cmd (.openPort 0xA7) ∧
    decode 0b00000010000000000000000000000000 = .cmd .close ∧
    decode 0b00000011000000000000000000000000 = .cmd .clearFlags := by decide

theorem test_decode_crc :
    decode 0b00010000000000000000000000000000 = .cmd .crcInit ∧
    decode 0b00010001000000000000000000010010 = .cmd (.crcByte 0x12) ∧
    decode 0b00010010000000000000000000000000 = .cmd .crcTx ∧
    decode 0b00010011000000000000000000000000 = .cmd .crcCheck := by decide

theorem test_decode_transport :
    decode 0b00100000000000010000000000000000 = .cmd (.send true) ∧
    decode 0b00100001000000000000000100000001 = .cmd (.receive 0x101) ∧
    decode 0b00100010000000010000000000001000 = .cmd (.transfer true 8) ∧
    decode 0b00100010000000001000000000000001 = .cmd (.transfer false 0x8001) := by decide

theorem test_decode_monitor :
    decode 0b00110000000000000000000001000000 = .cmd (.monStart 64) ∧
    decode 0b00110001000000000000000000000000 = .cmd .monStop := by decide

/-- N8, C4, X6, X7: ignored bits, and reserved opcodes. -/
theorem test_decode_ignored_and_reserved :
    decode 0x00FFFFFF = .cmd .nop ∧ decode 0x11FFFF00 = .cmd (.crcByte 0) ∧ decode 0x20FE0000 = .cmd (.send false) ∧
    decode 0x04000000 = .illegal 0x04 ∧ decode 0xFF000000 = .illegal 0xFF ∧ decode 0x32000000 = .illegal 0x32 := by decide

theorem test_encode :
    encode (.send true) = 0x20010000 ∧ encode (.transfer true 8) = 0x22010008 ∧ encode (.receive 0x101) = 0x21000101 ∧
    encode (.monStart 5) = 0x30000005 ∧ encode (.crcByte 0xD8) = 0x110000D8 ∧ encode .monStop = 0x31000000 := by decide

theorem test_decodeTableWord : decodeTableWord 32 0x22010007 = some (.transfer true 7) := by decide

/-! ### The text forms (R98, R99, R247) -/

theorem test_spell : spell (.transfer true 8) = "TRANSFER crc, 8" ∧ spell (.send false) = "SEND nocrc" := by decide

/-- P5 step 6, in short. -/
theorem test_loadTx :
    loadTx Config.default [0x01, 0x06] =
      [.host 0 (.write 4 0x400 1), .host 0 (.write 4 0x404 6), .host 0 (.write 4 0x00C 2)] := by decide

/-- P2 step 9, where the loop ends at once, and an answer with BUSY before it. -/
theorem test_waitIdle :
    waitIdle Config.default [0x00000002] = [.host 0 (.read 4 0x004)] ∧
    waitIdle Config.default [0x00030003, 0x00000002] = [.host 0 (.read 4 0x004), .host 0 (.read 4 0x004)] := by decide

/-- W13, R3. -/
theorem test_trace_line :
    String.ofList (TraceEvent.tx [0x01, 0x06, 0x00, 0x01, 0x01, 0x00, 0xD9, 0x9A]).line =
      "TX 8 Bytes:  01 06 00 01 01 00 D9 9A" ∧
    String.ofList (TraceEvent.rx [0x01, 0x06, 0x00, 0x01, 0x01]).line = "RX 5 Bytes:  01 06 00 01 01" := by decide

/-! ### The CRC function -/

/-- W1 to W4, K7 to K10. -/
theorem test_crc_short :
    crc [] = (0xFF, 0xFF) ∧ crc [0x00] = (0xBF, 0x40) ∧ crc [0xFF] = (0xFF, 0x00) ∧ crc [0x01] = (0x7E, 0x80) ∧
    crc [0x80] = (0xBE, 0xE0) ∧ crc [0xFF, 0xFF] = (0x00, 0x00) ∧ crc [0x12, 0x34, 0x56, 0x67] = (0x3A, 0xD8) := by decide

/-- K1 to K6, K11. -/
theorem test_crc_frames :
    crc [0x01, 0x06, 0x00, 0x01, 0x01, 0x00] = (0xD9, 0x9A) ∧ crc [0x01, 0x03, 0x00, 0x01, 0x00, 0x01] = (0xD5, 0xCA) ∧
    crc [0x01, 0x03, 0x02, 0x00, 0x01] = (0x79, 0x84) ∧ crc [0x05, 0x03, 0x02, 0x00, 0x01] = (0x88, 0x44) ∧
    crc [0x07, 0x06, 0x00, 0x02, 0x01, 0x00] = (0x29, 0xFC) ∧
    crc [0x31, 0x32, 0x33, 0x34, 0x35, 0x36, 0x37, 0x38, 0x39] = (0x37, 0x4B) ∧
    crc [0x01, 0x06, 0x00, 0x01, 0x01, 0x00, 0xD9, 0x9A] = (0x00, 0x00) := by decide

/-! ### The CRC commands -/

/-- C1. -/
theorem test_crcInit : crcAccWord (stepOn (cmd 0x10000000) { State.reset with accHi := 0xBF, accLo := 0x40 }) = 0x0000FFFF := by
  decide

/-- C4: the ignored bits have no effect. -/
theorem test_crcByte : crcAccWord (stepOn (cmd 0x11FFFF00) State.reset) = 0x0000BF40 := by decide

/-- C5: `b = acc_hi`. -/
theorem test_crcByte_equal : crcAccWord (stepOn (cmd 0x110000FF) State.reset) = 0x0000FF00 := by decide

/-- C8. -/
theorem test_crcTx : crcAccWord (stepOn (cmd 0x12000000) (loaded [0x12, 0x34, 0x56, 0x67])) = 0x00003AD8 := by decide

/-- C7. -/
theorem test_crcTx_too_long :
    let t := stepOn (cmd 0x12000000) { State.reset with accHi := 0xBF, accLo := 0x40, txLen := 257 }
    statusWord t = 0x00000700 ∧ crcAccWord t = 0x0000BF40 := by decide

/-- C11, C13, C14. -/
theorem test_crcCheck :
    (stepOn (cmd 0x13000000) (received [0xFF, 0xFF])).err = .none ∧
    (stepOn (cmd 0x13000000) (received [0x01, 0x06, 0x00, 0x01, 0x01, 0x00, 0xD9, 0x9B])).err = .crcMismatch ∧
    crcAccWord (stepOn (cmd 0x13000000) (received [0x00, 0xD9, 0x9A])) = 0x0000BF40 := by decide

/-- C10. -/
theorem test_crcCheck_short :
    let t := stepOn (cmd 0x13000000) (received [0x55])
    t.err = .crcMismatch ∧ crcAccWord t = 0x0000FFFF := by decide

/-! ### Control and connection commands -/

/-- N1, N2. -/
theorem test_open :
    statusWord (stepOn (cmd 0x01000000) { State.reset with openAnswer := some true }) = 0x00000002 ∧
    statusWord (stepOn (cmd 0x01000000) { State.reset with openAnswer := some false }) = 0x00000100 := by decide

/-- R99: an announcement is for the OPEN of the event directly after it, rejected or not, and waits with an OPEN that
holds. -/
theorem test_open_announced :
    (stepOn (cmd 0x01000000) { opened with openAnswer := some false }).openAnswer = none ∧
    (stepOn .tick { opened with openAnswer := some false }).openAnswer = none ∧
    (stepOn (cmd 0x01000000) { writing [1] with openAnswer := some false }).held =
      [⟨0, .write 4 0 0x01000000, some false⟩] ∧
    statusWord (stepOn (.resume 0) { State.reset with held := [⟨0, .write 4 0 0x01000000, some false⟩] }) =
      0x00000100 := by decide

/-- N4. -/
theorem test_open_twice : statusWord (stepOn (cmd 0x01000001) opened) = 0x00000A02 := by decide

/-- N5, N7. -/
theorem test_close :
    statusWord (stepOn (cmd 0x02000000) State.reset) = 0x00000000 ∧
    (stepOn (cmd 0x02000000) { opened with rxFifo := [0xAA, 0xBB] }).rxFifo = [] := by decide

/-- X3. -/
theorem test_close_monitoring : statusWord (stepOn (cmd 0x02000000) (monitoring 0 [] 0)) = 0x00000906 := by decide

/-- N9. -/
theorem test_clearFlags :
    statusWord (stepOn (cmd 0x03000000) { opened with rxOvr := true, rxFifo := [1, 2, 3, 4] }) = 0x00000002 := by decide

/-- N8. -/
theorem test_nop : (stepOn (cmd 0x00FFFFFF) { opened with err := .badState }).err = .badState := by decide

/-! ### Transport commands and events -/

/-- W5 at acceptance; T4: the stale bytes are drained. -/
theorem test_send :
    let t := stepOn (cmd 0x20010000) { loaded [0x01, 0x06, 0x00, 0x01, 0x01, 0x00] with rxFifo := [0xAA, 0xBB] }
    t.txShadow = [0x01, 0x06, 0x00, 0x01, 0x01, 0x00, 0xD9, 0x9A] ∧ t.rxFifo = [] ∧ statusWord t = 0x00010003 ∧
      crcAccWord t = 0x0000D99A := by decide

/-- X1. -/
theorem test_send_not_open : statusWord (stepOn (cmd 0x20010000) { State.reset with txLen := 300 }) = 0x00000800 := by decide

/-- P2 step 3. -/
theorem test_transfer :
    let t := stepOn (cmd 0x22010008) (verbosely (loaded [0x01, 0x06, 0x00, 0x01, 0x01, 0x00]))
    statusWord t = 0x00010003 ∧ t.curTransfer = true ∧ t.curExpected = 8 ∧
      t.trace = [.tx [0x01, 0x06, 0x00, 0x01, 0x01, 0x00, 0xD9, 0x9A]] := by decide

/-- X8, X9: no drain. -/
theorem test_transfer_bad_argument :
    (stepOn (cmd 0x22010008) { opened with txLen := 257 }).err = .invalidArgument ∧
    (stepOn (cmd 0x2201012C) { opened with rxFifo := [1] }).rxFifo = [1] := by decide

/-- T10: a receive that its bytes wait for completes in the accepting step. -/
theorem test_receive :
    let t := stepOn (cmd 0x21000008) { opened with rxFifo := [1, 2, 3, 4, 5, 6, 7, 8, 9, 10] }
    t.phase = .idle ∧ t.rxLen = 8 ∧ t.rxbuf = bufferOf [1, 2, 3, 4, 5, 6, 7, 8] ∧ t.rxFifo = [9, 10] ∧ t.err = .none := by
  decide

/-- T15, T6. -/
theorem test_receive_bounds :
    statusWord (stepOn (cmd 0x21000101) opened) = 0x00000702 ∧ statusWord (stepOn (cmd 0x21000000) opened) = 0x00040003 := by
  decide

/-- P2 step 4. -/
theorem test_writeOk :
    let t := stepOn .writeOk (writing [1, 2, 3])
    t.wire = [1, 2, 3] ∧ statusWord t = 0x00020003 := by decide

/-- T5. -/
theorem test_writeFail :
    let t := stepOn (.writeFail 3) (transferring [0x01, 0x06, 0x00, 0x01] 8)
    t.wire = [0x01, 0x06, 0x00] ∧ statusWord t = 0x00000202 ∧ t.rxExpect = 0 := by decide

/-- T2, P2 step 6. -/
theorem test_delay_ends :
    statusWord (stepOn .tick (delaying false 0 24)) = 0x00000002 ∧
    statusWord (stepOn .tick (delaying true 8 24)) = 0x00030003 ∧ (stepOn .tick (delaying true 8 24)).rxExpect = 8 := by
  decide

/-- T20: a reply that arrived during S_IFD is taken when the receive starts. -/
theorem test_early_reply :
    let t := stepOn .tick { delaying true 2 24 with rxFifo := [7, 8, 9] }
    t.phase = .idle ∧ t.rxLen = 2 ∧ t.rxFifo = [9] := by decide

/-- T11, T12, and R3. -/
theorem test_receive_window :
    statusWord (stepOn .tick (receiving 8 [1, 2, 3, 4, 5] 99)) = 0x00000402 ∧
    statusWord (stepOn .tick (receiving 7 [] 99)) = 0x00000302 ∧
    (stepOn .tick (verbosely (receiving 8 [1, 2, 3, 4, 5] 99))).trace = [.rx [1, 2, 3, 4, 5]] := by decide

/-- T7, T8. -/
theorem test_settle :
    statusWord (stepOn .tick (settling [] 49)) = 0x00000302 ∧
    (stepOn .tick (settling [1, 2, 3] 49)).rxbuf = bufferOf [1, 2, 3] ∧ (stepOn .tick (settling [1, 2, 3] 49)).rxLen = 3 := by
  decide

/-- T13, T14. -/
theorem test_read_error :
    statusWord (stepOn .rxError (receiving 8 [1, 2, 3] 0)) = 0x00000602 ∧
    statusWord (stepOn .rxError (settling [1, 2] 0)) = 0x00000602 ∧ (stepOn .rxError (settling [1, 2] 0)).rxFifo = [1, 2] := by
  decide

/-- N10, T16. -/
theorem test_rxByte :
    (stepOn (.rxByte 0x55) State.reset).rxFifo = [] ∧
    statusWord (stepOn (.rxByte 5) (withFifo 4 { opened with rxFifo := [1, 2, 3, 4] })) = 0x00000042 ∧
    (stepOn (.rxByte 5) (withFifo 4 { opened with rxFifo := [1, 2, 3, 4] })).rxFifo = [1, 2, 3, 4] := by decide

/-! ### The monitor -/

/-- M1, M12. -/
theorem test_monStart :
    statusWord (stepOn (cmd 0x30000005) opened) = 0x00000006 ∧ (stepOn (cmd 0x30000005) opened).monFilter = 5 ∧
    (stepOn (cmd 0x30000005) { opened with rxFifo := [5, 1] }).monBuf = [5, 1] := by decide

/-- M15, X4. -/
theorem test_monStart_rejected :
    statusWord (stepOn (cmd 0x30000040) opened) = 0x00000702 ∧
    statusWord (stepOn (cmd 0x30000063) (monitoring 0 [] 0)) = 0x00000A06 := by decide

/-- M10, M14. -/
theorem test_monStop :
    statusWord (stepOn (cmd 0x31000000) (monitoring 0 [1, 2] 0)) = 0x00000016 ∧
    statusWord (stepOn (cmd 0x31000000) State.reset) = 0x00000000 := by decide

/-- M2, M3, M4: the gap's last tick closes the frame. -/
theorem test_frames :
    (stepOn .tick (monitoring 0 [7, 1] 24)).reports = [.monFrame [7, 1]] ∧
    (stepOn .tick (monitoring 5 [7, 6] 24)).reports = [] ∧ (stepOn .tick (monitoring 5 [0x85, 1] 24)).reports = [] ∧
    (stepOn .tick (monitoring 0 [1, 2] 23)).reports = [] := by decide

/-- M7: an over-length frame is discarded and marked. -/
theorem test_over_length :
    let t := stepOn .tick (withMonBuf 4 { monitoring 0 [1, 2, 3, 4] 24 with monOvfPend := true })
    t.reports = [] ∧ statusWord t = 0x00000086 ∧
      (stepOn (.rxByte 5) (withMonBuf 4 (monitoring 0 [1, 2, 3, 4] 3))).monOvfPend = true := by decide

/-- M8, M9, M11. -/
theorem test_run_stops :
    statusWord (stepOn .rxError (monitoring 0 [1, 2] 0)) = 0x0000002A ∧
    (stepOn .rxError (monitoring 0 [1, 2] 0)).reports = [.monReadError] ∧
    statusWord (stepOn .rxError (stopping [] 0)) = 0x0000000A ∧
    statusWord (stepOn (.rxByte 3) (stopping [1, 2] 0)) = 0x0000000A := by decide

/-! ### Rejection, the bus, the hold, Reset -/

/-- X6, X7, X2. -/
theorem test_rejections :
    statusWord (stepOn (cmd 0x04000000) opened) = 0x00000B02 ∧ statusWord (stepOn (cmd 0xFF000000) State.reset) = 0x00000B00 ∧
    statusWord (stepOn (cmd 0x20010000) (monitoring 0 [] 0)) = 0x00000906 := by decide

/-- B2 to B5, B9's address. -/
theorem test_bus_errors :
    (stepOn (.host 3 (.read 4 0x020)) State.reset).bus = [⟨3, .busError⟩] ∧ target 0x002 4 = none ∧ target 0x004 1 = none ∧
    target 0x004 2 = none ∧ target 0xC00 4 = none ∧ target 0x800 4 = some (.rxBuf 0) := by decide

/-- B1, B10, B6. -/
theorem test_bus_reads :
    (stepOn (.host 0 (.read 4 0x000)) State.reset).bus = [⟨0, .data 0⟩] ∧
    (stepOn (.host 0 (.read 4 0x018)) { opened with rxFifo := [1, 2, 3] }).bus = [⟨0, .data 3⟩] ∧
    (stepOn (.host 0 (.write 4 0x004 0xFFFFFFFF)) State.reset).bus = [⟨0, .done⟩] := by decide

/-- B7, B8. -/
theorem test_bus_writes :
    txLenWord (stepOn (.host 0 (.write 4 0x00C 0x12340101)) State.reset) = 0x00000101 ∧
    (stepOn (.host 0 (.write 4 0x404 0x1AB)) State.reset).txbuf = [(1, 0xAB)] := by decide

/-- X12: a CMD write while BUSY waits, and a register read of the same agent waits behind it. -/
theorem test_hold :
    (stepOn (cmd 0x10000000) (writing [1])).held = [⟨0, .write 4 0 0x10000000, none⟩] ∧
    (stepOn (.host 0 (.read 4 0x004)) { writing [1] with held := [⟨0, .write 4 0 0, none⟩] }).bus = [] ∧
    crcAccWord (stepOn (.resume 0) { opened with held := [⟨0, .write 4 0 0x10000000, none⟩], accLo := 0 }) =
      0x0000FFFF := by decide

/-- Z2, Z3. -/
theorem test_reset_event :
    (stepOn (.reset 2) (writing [1, 2, 3, 4])).wire = [1, 2] ∧ statusWord (stepOn (.reset 0) (monitoring 0 [1] 0)) = 0 ∧
    (stepOn (.reset 0) (monitoring 0 [1] 0)).reports = [] ∧ (stepOn (.reset 2) (writing [1, 2, 3, 4])).devOps = [.close] := by
  decide

/-! ### Memory -/

theorem test_memory_form : (bufferOf [1, 2]).wf = true ∧ Memory.wf [(1, 0), (0, 0)] = false ∧ Memory.wf [(256, 0)] = false := by
  decide

/-- A command placed by `withFetchWord` runs as the next step after reset. -/
theorem test_withFetchWord :
    isNext (step (State.reset.withFetchWord 32 0x22010007)) = true ∧
    (stateOf (step (State.reset.withFetchWord 32 0x22010007))).err = .notOpen := by decide

/-! ### The invariants hold in a state of every phase -/

theorem inv_opened : Inv opened := by constructor <;> decide
theorem inv_fifo : Inv (withFifo 2 { opened with rxFifo := [1, 2] }) := by constructor <;> decide
theorem inv_writing : Inv (writing [1, 2, 3]) := by constructor <;> decide
theorem inv_transferring : Inv (transferring [1, 2, 3] 2) := by constructor <;> decide
theorem inv_delaying (a : Bool) : Inv (delaying a 8 24) := by cases a <;> constructor <;> decide
theorem inv_delaying_early : Inv (delaying true 8 23) := by constructor <;> decide
theorem inv_receiving : Inv (receiving 8 [1, 2, 3] 99) := by constructor <;> decide
theorem inv_receiving_early : Inv (receiving 1 [] 98) := by constructor <;> decide
theorem inv_settling : Inv (settling [1, 2] 49) := by constructor <;> decide
theorem inv_settling_early : Inv (settling [] 48) := by constructor <;> decide
theorem inv_monitoring : Inv (monitoring 5 [5, 1] 24) := by constructor <;> decide
theorem inv_monitoring_new : Inv (monitoring 0 [] 0) := by constructor <;> decide
theorem inv_monitoring_full : Inv (withMonBuf 2 { monitoring 0 [1, 2] 24 with monOvfPend := true }) := by
  constructor <;> decide
theorem inv_stopping : Inv (stopping [1, 2] 24) := by constructor <;> decide

/-- The listed inputs are no part of the invariants. -/
theorem inv_inputs {s : State} (h : Inv s) (l : List Event) : Inv { s with inputs := l } := by
  obtain ⟨⟩ := h
  constructor <;> assumption

theorem inv_with1 {s : State} (h : Inv s) (e : Event) : Inv (with1 e s) := inv_inputs h [e]

/-! ### Witnesses: for each statement with hypotheses, and each of its clauses, a state and operands that meet them -/

theorem witness_OnlyWellFormedConfigurationsRun :
    State.cfg { State.reset with cfg := { Config.default with tRx := 0 } } = { Config.default with tRx := 0 } ∧
      Config.wf { Config.default with tRx := 0 } = false := by decide

theorem witness_ResetSetsEveryField :
    (with1 (.reset 3) (writing [1, 2, 3])).cfg.wf = true ∧ (with1 (.reset 3) (writing [1, 2, 3])).inputs = [.reset 3] := by
  decide

theorem witness_CrcTxComputes :
    let s : State := { opened with txLen := 257 }
    let u : State := { opened with txLen := 256 }
    256 < s.txLen.toNat ∧ u.txLen.toNat ≤ 256 := by decide

theorem witness_CrcCheckCompares : (received [1]).rxLen.toNat < 2 ∧ 2 ≤ (received [1, 2]).rxLen.toNat := by decide

theorem witness_OpenFollowsTheDevice :
    opened.conn = .opened ∧ State.reset.conn = .closed ∧
      State.openAnswer { State.reset with openAnswer := some false } = some false ∧
      isNext (step (with1 (.openAnswer true) opened)) = true ∧ isNext (step (with1 (cmd 0x01000000) opened)) = true := by
  decide

theorem witness_CloseCloses : (monitoring 0 [] 0).monState = .running ∧ opened.monState ≠ .running := by decide

theorem witness_SendAndTransferHandOverTheFrame :
    let s : State := { opened with txLen := 256 }
    s.conn = .opened ∧ s.monState ≠ .running ∧ s.txLen.toNat ≤ 256 ∧ (256 : Half).toNat ≤ 256 := by decide

/-- A free-form drain, fewer bytes buffered than asked for, and as many, at the ends of the length's range. -/
theorem witness_ReceiveBegins :
    let s : State := { opened with rxFifo := [7, 8] }
    State.reset.conn = .closed ∧ ((monitoring 0 [] 0).conn = .opened ∧ (monitoring 0 [] 0).monState = .running) ∧
    (s.conn = .opened ∧ s.monState ≠ .running ∧ 256 < (257 : Half).toNat ∧ (0 : Half).toNat ≤ 256 ∧
      ((256 : Half).toNat ≤ 256 ∧ (256 : Half) ≠ 0 ∧ s.rxFifo.length < (256 : Half).toNat) ∧
      ((2 : Half).toNat ≤ 256 ∧ (2 : Half) ≠ 0 ∧ (2 : Half).toNat ≤ s.rxFifo.length)) := by decide

theorem witness_MonStartBeginsARun :
    State.reset.conn = .closed ∧ ((monitoring 0 [] 0).conn = .opened ∧ (monitoring 0 [] 0).monState = .running) ∧
      (opened.conn = .opened ∧ opened.monState ≠ .running ∧ 63 < (64 : Byte).toNat ∧ (0 : Byte).toNat ≤ 63 ∧
        (63 : Byte).toNat ≤ 63 ∧ opened.phase = .idle) := by decide

/-- The words whose OP the statements about single commands name. -/
theorem witness_opcodes :
    (0x10000000 : Word).extractLsb' 24 8 = (0x10 : Byte) ∧ (0x110000FF : Word).extractLsb' 24 8 = (0x11 : Byte) ∧
    (0x12000000 : Word).extractLsb' 24 8 = (0x12 : Byte) ∧ (0x13000000 : Word).extractLsb' 24 8 = (0x13 : Byte) ∧
    (0x00FFFFFF : Word).extractLsb' 24 8 = (0x00 : Byte) ∧ (0x03000000 : Word).extractLsb' 24 8 = (0x03 : Byte) ∧
    (0x21000008 : Word).extractLsb' 24 8 = (0x21 : Byte) ∧ (0x30000005 : Word).extractLsb' 24 8 = (0x30 : Byte) ∧
    (0x31000000 : Word).extractLsb' 24 8 = (0x31 : Byte) := by decide

theorem witness_MonStopRequests : (monitoring 0 [] 0).monState = .running ∧ opened.monState ≠ .running := by decide

/-- One state for each check of R262. -/
theorem witness_FirstFailingCheckRejects :
    acceptanceError (decode 0x32000000) opened = some .illegalCommand ∧
    acceptanceError (decode 0x20010000) { State.reset with txLen := 300 } = some .notOpen ∧
    acceptanceError (decode 0x21000101) (monitoring 0 [] 0) = some .modeConflict ∧
    acceptanceError (decode 0x30000063) (monitoring 0 [] 0) = some .badState ∧
    acceptanceError (decode 0x21000101) opened = some .invalidArgument ∧
    acceptanceError (decode 0x30000040) opened = some .invalidArgument := by decide

theorem witness_CommandsLeaveBuffersAlone : ∃ t, exec (.send true) (loaded [1, 2]) = .next t := ⟨_, rfl⟩

/-- A command, and steps that run another command, none, and MON_START. -/
theorem witness_StickyFlagsStay :
    let s : State := { opened with rxOvr := true, monOvf := true, monErr := true }
    ((∃ t, exec (.monStart 5) s = .next t) ∧ Instr.monStart 5 ≠ .clearFlags) ∧
    (isNext (step (with1 (cmd 0x13000000) s)) = true ∧ isReset (takeEvent (with1 (cmd 0x13000000) s)).1 = false ∧
      stepCommand (with1 (cmd 0x13000000) s) = some .crcCheck) ∧
    (isNext (step (with1 .tick s)) = true ∧ isReset (takeEvent (with1 .tick s)).1 = false ∧
      stepCommand (with1 .tick s) = none) ∧
    stepCommand (with1 (cmd 0x30000005) s) = some (.monStart 5) :=
  ⟨⟨⟨_, rfl⟩, by decide⟩, by decide, by decide, by decide⟩

/-- OPEN and CLOSE as commands and as steps, and Reset. -/
theorem witness_OnlyOpenOpensTheConnection :
    let s := with1 (cmd 0x01000000) { State.reset with openAnswer := some true }
    let u := with1 (cmd 0x02000000) opened
    let v := with1 (.reset 0) opened
    (∃ t, exec (.openPort 0) { State.reset with openAnswer := some true } = .next t ∧ t.conn = .opened) ∧
    (∃ t, exec .close opened = .next t ∧ t.conn = .closed) ∧
    (s.conn = .closed ∧ (∃ t, step s = .next t ∧ t.conn = .opened) ∧ stepCommand s = some (.openPort 0)) ∧
    (u.conn = .opened ∧ (∃ t, step u = .next t ∧ t.conn = .closed) ∧ stepCommand u = some .close) ∧
    (v.conn = .opened ∧ (∃ t, step v = .next t ∧ t.conn = .closed) ∧ isReset (takeEvent v).1 = true) :=
  ⟨⟨_, rfl, rfl⟩, ⟨_, rfl, rfl⟩, ⟨rfl, ⟨_, rfl, rfl⟩, by decide⟩, ⟨rfl, ⟨_, rfl, rfl⟩, by decide⟩,
    ⟨rfl, ⟨_, rfl, rfl⟩, rfl⟩⟩

theorem witness_StepRunsTheDecodedCommand :
    let s := with1 (.host 2 (.write 4 0 0x21000008)) opened
    s.cfg.wf = true ∧ s.phase = .idle ∧ isHeld 2 s.held = false ∧
      s.inputs = .host 2 (.write 4 s.cfg.base 0x21000008) :: [] ∧ decode 0x21000008 = .cmd (.receive 8) ∧
      decodeTableWord 32 0x21000008 = some (.receive 8) := by decide

theorem witness_ReservedOpcodeIsRejected :
    let s := with1 (.host 2 (.write 4 0 0x04000000)) opened
    Inv s ∧ s.phase = .idle ∧ isHeld 2 s.held = false ∧ s.inputs = .host 2 (.write 4 s.cfg.base 0x04000000) :: [] ∧
      decode 0x04000000 = .illegal 0x04 :=
  ⟨inv_with1 inv_opened _, by decide, by decide, by decide, by decide⟩

/-- An unmapped offset at the end of the window, a misaligned one, and a narrow access. -/
theorem witness_BusErrorChangesNoState :
    let s := with1 (.host 2 (.read 4 0xFFC)) (receiving 8 [1, 2, 3] 99)
    Inv s ∧ isHeld 2 s.held = false ∧ s.inputs = .host 2 (.read 4 0xFFC) :: [] ∧ offsetOf s.cfg 0xFFC = some 0xFFC ∧
      target 0xFFC 4 = none ∧ target 0x401 4 = none ∧ target 0x000 2 = none :=
  ⟨inv_with1 inv_receiving _, by decide, by decide, by decide, by decide, by decide, by decide⟩

/-- The last entry of RXBUF, UNWRITTEN, and a register, in a transaction. -/
theorem witness_HostReadsTheRegister :
    let s := with1 (.host 2 (.read 4 (0 + 0xBFC))) (receiving 8 [1, 2, 3] 99)
    let u := with1 (.host 2 (.read 4 (0 + 0x018))) opened
    (Inv s ∧ isHeld 2 s.held = false ∧ s.inputs = .host 2 (.read 4 (s.cfg.base + 0xBFC)) :: [] ∧
      target 0xBFC 4 = some (.rxBuf 255)) ∧
    (Inv u ∧ isHeld 2 u.held = false ∧ u.inputs = .host 2 (.read 4 (u.cfg.base + 0x018)) :: [] ∧
      target 0x018 4 = some .rxAvail) :=
  ⟨⟨inv_with1 inv_receiving _, by decide, by decide, by decide⟩, ⟨inv_with1 inv_opened _, by decide, by decide, by decide⟩⟩

theorem witness_HostWritesTheRegister :
    let s := with1 (.host 2 (.write 4 (0 + 0x7FC) 0x1AB)) (writing [1, 2, 3])
    let u := with1 (.host 2 (.write 4 (0 + 0x800) 0x1AB)) (writing [1, 2, 3])
    (Inv s ∧ isHeld 2 s.held = false ∧ s.inputs = .host 2 (.write 4 (s.cfg.base + 0x7FC) 0x1AB) :: [] ∧
      target 0x7FC 4 = some (.txBuf 255) ∧ Reg.txBuf 255 ≠ .cmd) ∧
    (Inv u ∧ isHeld 2 u.held = false ∧ u.inputs = .host 2 (.write 4 (u.cfg.base + 0x800) 0x1AB) :: [] ∧
      target 0x800 4 = some (.rxBuf 0) ∧ Reg.rxBuf 0 ≠ .cmd) :=
  ⟨⟨inv_with1 inv_writing _, by decide, by decide, by decide, by decide⟩,
    ⟨inv_with1 inv_writing _, by decide, by decide, by decide, by decide⟩⟩

theorem witness_CmdWriteHoldsWhileBusy :
    let s := with1 (.host 2 (.write 4 0 0x10000000)) (writing [1, 2, 3])
    s.cfg.wf = true ∧ s.phase ≠ .idle ∧ s.inputs = .host 2 (.write 4 s.cfg.base 0x10000000) :: [] := by decide

/-- `s` with a resume of agent 2 next, whose oldest held access is `acc`, behind one of agent 1. -/
def resuming (acc : Access) (s : State) : State :=
  { with1 (.resume 2) s with held := [⟨1, .write 4 0 0, none⟩, ⟨2, acc, none⟩, ⟨2, .read 4 0x004, none⟩] }

theorem inv_resuming {s : State} (hs : Inv s) (hc : s.cfg = Config.default) (acc : Access)
    (h : (offsetOf Config.default acc.addr).isSome = true) : Inv (resuming acc s) := by
  have hl : ∀ x ∈ (resuming acc s).held, (offsetOf s.cfg x.acc.addr).isSome = true := by
    rw [hc]
    simp only [resuming, List.mem_cons, List.not_mem_nil, or_false]
    rintro x (rfl | rfl | rfl)
    · decide
    · exact h
    · decide
  obtain ⟨⟩ := hs
  constructor <;> assumption

/-- An agent's second access, and the resume of its first: a command, busy and idle; a reserved opcode; a read and writes of
TXBUF and of TX_LEN; a refused access at the end of the window. -/
theorem witness_HeldAccessesKeepTheirOrder :
    let s : State :=
      { with1 (.host 2 (.read 4 0xFFF)) (writing [1]) with held := [⟨2, .write 4 0 0x10000000, none⟩] }
    (s.cfg.wf = true ∧ isHeld 2 s.held = true ∧ (offsetOf s.cfg 0xFFF).isSome = true ∧
      s.inputs = .host 2 (.read 4 0xFFF) :: []) ∧
    (∀ acc : Access, (offsetOf Config.default acc.addr).isSome = true →
      (Inv (resuming acc opened) ∧ (resuming acc opened).phase = .idle ∧
        (resuming acc opened).inputs = .resume 2 :: [] ∧
        (resuming acc opened).held = [⟨1, .write 4 0 0, none⟩] ++ ⟨2, acc, none⟩ :: [⟨2, .read 4 0x004, none⟩]) ∧
      Inv (resuming acc (writing [1, 2, 3])) ∧ (resuming acc (writing [1, 2, 3])).phase ≠ .idle) ∧
    (∀ h ∈ [(⟨1, .write 4 0 0, none⟩ : HeldAccess)], h.agent ≠ 2) ∧
    decode 0x10000000 = .cmd .crcInit ∧ decode 0x32000000 = .illegal 0x32 ∧
    (target 0xBFC 4 = some (.rxBuf 255) ∧ target 0x7FC 4 = some (.txBuf 255) ∧ target 0x00C 4 = some .txLen ∧
      target 0xFFC 4 = none ∧ (offsetOf Config.default 0xFFC).isSome = true) := by
  refine ⟨by decide, fun acc h => ⟨⟨inv_resuming inv_opened rfl acc h, rfl, rfl, rfl⟩, inv_resuming inv_writing rfl acc h, ?_⟩, by decide, by decide,
    by decide, by decide⟩
  exact fun hp => nomatch hp

/-- Closed, with room, full, and a fixed-length receive that goes on or ends. -/
theorem witness_ArrivingByteIsBuffered :
    let s := with1 (.rxByte 7) State.reset
    let u := with1 (.rxByte 7) opened
    let v := with1 (.rxByte 7) (withFifo 2 { opened with rxFifo := [1, 2] })
    let x := with1 (.rxByte 7) (receiving 8 [1, 2, 3] 99)
    let y := with1 (.rxByte 7) (receiving 1 [] 98)
    (Inv s ∧ s.phase ≠ .rFixed ∧ s.monState ≠ .running ∧ s.inputs = .rxByte 7 :: [] ∧ s.conn = .closed) ∧
    (Inv u ∧ u.phase ≠ .rFixed ∧ u.monState ≠ .running ∧ u.inputs = .rxByte 7 :: [] ∧ u.conn = .opened ∧
      u.rxFifo.length < u.cfg.rxFifoDepth) ∧
    (Inv v ∧ v.phase ≠ .rFixed ∧ v.monState ≠ .running ∧ v.inputs = .rxByte 7 :: [] ∧ v.conn = .opened ∧
      v.rxFifo.length = v.cfg.rxFifoDepth) ∧
    (Inv x ∧ x.inputs = .rxByte 7 :: [] ∧ x.phase = .rFixed ∧ x.rxLen.toNat + 1 < x.rxExpect.toNat) ∧
    (Inv y ∧ y.inputs = .rxByte 7 :: [] ∧ y.phase = .rFixed ∧ y.rxLen.toNat + 1 = y.rxExpect.toNat) := by
  refine ⟨⟨?_, by decide, by decide, by decide, by decide⟩,
    ⟨inv_with1 inv_opened _, by decide, by decide, by decide, by decide, by decide⟩,
    ⟨inv_with1 inv_fifo _, by decide, by decide, by decide, by decide, by decide⟩,
    ⟨inv_with1 inv_receiving _, by decide, by decide, by decide⟩,
    ⟨inv_with1 inv_receiving_early _, by decide, by decide, by decide⟩⟩
  constructor <;> decide

theorem witness_WriteResultsContinueOrEnd :
    Inv (with1 .writeOk (writing [1, 2, 3])) ∧ (with1 .writeOk (writing [1, 2, 3])).phase = .sWrite ∧
    Inv (with1 (.writeFail 3) (transferring [1, 2, 3] 2)) ∧
      (with1 (.writeFail 3) (transferring [1, 2, 3] 2)).phase = .sWrite ∧
      (3 : Nat) ≤ (with1 (.writeFail 3) (transferring [1, 2, 3] 2)).txShadow.length :=
  ⟨inv_with1 inv_writing _, by decide, inv_with1 inv_transferring _, by decide, by decide⟩

theorem witness_DisabledDeviceEventsHaveNoMove :
    let s := with1 .rxError (writing [1, 2, 3])
    let u := with1 .writeOk opened
    let v := with1 (.writeFail 4) (writing [1, 2, 3])
    (s.cfg.wf = true ∧ s.phase ≠ .rFixed ∧ s.phase ≠ .rSettle ∧ s.monState ≠ .running ∧ s.inputs = .rxError :: []) ∧
    (u.cfg.wf = true ∧ u.phase ≠ .sWrite ∧ u.inputs = .writeOk :: []) ∧
    (v.cfg.wf = true ∧ v.txShadow.length < 4 ∧ v.inputs = .writeFail 4 :: []) ∧
    ((with1 .tick opened).phase = .idle ∧ (with1 .tick opened).monState ≠ .running ∧
      (with1 .tick (writing [1, 2, 3])).phase = .sWrite ∧ (with1 .tick (writing [1, 2, 3])).monState ≠ .running) := by
  decide

theorem witness_DelayTicksEndInTheReceive :
    let s := with1 .tick (delaying true 8 23)
    let u := with1 .tick (delaying false 8 24)
    let v := with1 .tick (delaying true 8 24)
    (Inv s ∧ s.phase = .sIfd ∧ s.tmr + 1 < s.cfg.tIfd) ∧
    (Inv u ∧ u.phase = .sIfd ∧ u.tmr + 1 = u.cfg.tIfd ∧ u.curTransfer = false) ∧
    (Inv v ∧ v.phase = .sIfd ∧ v.tmr + 1 = v.cfg.tIfd ∧ v.curTransfer = true) :=
  ⟨⟨inv_with1 inv_delaying_early _, by decide, by decide⟩,
    ⟨inv_with1 (inv_delaying false) _, by decide, by decide, by decide⟩,
    ⟨inv_with1 (inv_delaying true) _, by decide, by decide, by decide⟩⟩

/-- Two bytes of five missing ones, and as many as are missing. -/
theorem witness_FixedReceiveTakesAvailableBytes :
    let s : State := { receiving 8 [1, 2, 3] 0 with rxFifo := [4, 5] }
    let u : State := { receiving 8 [1, 2, 3] 0 with rxFifo := [4, 5, 6, 7, 8] }
    (s.phase = .rFixed ∧ s.monState ≠ .running ∧ s.rxLen.toNat ≤ s.rxExpect.toNat ∧ s.rxExpect.toNat ≤ 256 ∧
      (∀ i, i < s.rxLen.toNat → (s.rxbuf.read i).isSome = true) ∧
      s.rxFifo.length < s.rxExpect.toNat - s.rxLen.toNat) ∧
    (u.phase = .rFixed ∧ u.monState ≠ .running ∧ u.rxLen.toNat ≤ u.rxExpect.toNat ∧ u.rxExpect.toNat ≤ 256 ∧
      (∀ i, i < u.rxLen.toNat → (u.rxbuf.read i).isSome = true) ∧
      u.rxExpect.toNat - u.rxLen.toNat ≤ u.rxFifo.length) := by decide

theorem witness_ReceiveWindowEnds :
    let s := with1 .tick (receiving 1 [] 98)
    let u := with1 .tick (receiving 8 [1, 2, 3] 99)
    (Inv s ∧ s.phase = .rFixed ∧ s.inputs = .tick :: [] ∧ s.tmr + 1 < s.cfg.tRx) ∧
    (Inv u ∧ u.phase = .rFixed ∧ u.inputs = .tick :: [] ∧ u.tmr + 1 = u.cfg.tRx) :=
  ⟨⟨inv_with1 inv_receiving_early _, by decide, by decide, by decide⟩,
    ⟨inv_with1 inv_receiving _, by decide, by decide, by decide⟩⟩

theorem witness_SettleDelayDrains :
    let s := with1 .tick (settling [] 48)
    let u := with1 .tick (settling [1, 2] 49)
    (Inv s ∧ s.phase = .rSettle ∧ s.inputs = .tick :: [] ∧ s.tmr + 1 < s.cfg.tSettle) ∧
    (Inv u ∧ u.phase = .rSettle ∧ u.inputs = .tick :: [] ∧ u.tmr + 1 = u.cfg.tSettle) :=
  ⟨⟨inv_with1 inv_settling_early _, by decide, by decide, by decide⟩,
    ⟨inv_with1 inv_settling _, by decide, by decide, by decide⟩⟩

theorem witness_ReadFailureEndsTheReceive :
    let s := with1 .rxError (receiving 8 [1, 2, 3] 99)
    let u := with1 .rxError (settling [1, 2] 49)
    (Inv s ∧ s.phase = .rFixed ∧ s.inputs = .rxError :: []) ∧ (Inv u ∧ u.phase = .rSettle ∧ u.inputs = .rxError :: []) :=
  ⟨⟨inv_with1 inv_receiving _, by decide, by decide⟩, ⟨inv_with1 inv_settling _, by decide, by decide⟩⟩

theorem witness_HostCannotDisturbATransaction :
    let s := with1 (.host 0 (.write 4 0x400 7)) (receiving 8 [1, 2, 3] 99)
    Inv s ∧ s.phase ≠ .idle ∧ isHostEvent (.host 0 (.write 4 0x400 7)) = true ∧
      s.inputs = .host 0 (.write 4 0x400 7) :: [] ∧ ∃ t, step s = .next t :=
  ⟨inv_with1 inv_receiving _, by decide, by decide, by decide, ⟨_, rfl⟩⟩

theorem witness_TransportCommandsTerminate :
    let s := with1 .writeOk (writing [1, 2, 3])
    let u := with1 .tick (delaying true 8 23)
    (Inv s ∧ s.phase = .sWrite ∧ s.inputs = .writeOk :: [] ∧ ∃ t, step s = .next t) ∧
    (Inv u ∧ u.phase ≠ .idle ∧ u.phase ≠ .sWrite ∧ u.inputs = .tick :: [] ∧ ∃ t, step u = .next t) :=
  ⟨⟨inv_with1 inv_writing _, by decide, by decide, ⟨_, rfl⟩⟩,
    ⟨inv_with1 inv_delaying_early _, by decide, by decide, by decide, ⟨_, rfl⟩⟩⟩

/-- One arriving byte, and waiting bytes: more than the buffer holds, and with a stop requested. -/
theorem witness_MonitorTakesAByte :
    let s := with1 (.rxByte 9) (monitoring 5 [5, 1] 24)
    let u := with1 (.rxByte 9) (stopping [1, 2] 24)
    let x : State := withMonBuf 2 { monitoring 0 [] 0 with rxFifo := [1, 2, 3] }
    let y : State := { stopping [1] 3 with rxFifo := [1, 2, 3] }
    (Inv s ∧ s.monState = .running ∧ s.inputs = .rxByte 9 :: [] ∧ s.monStopReq = false) ∧
    (Inv u ∧ u.monState = .running ∧ u.inputs = .rxByte 9 :: [] ∧ u.monStopReq = true) ∧
    (x.phase ≠ .rFixed ∧ x.monState = .running ∧ x.monStopReq = false ∧ x.rxFifo ≠ []) ∧
    (y.phase ≠ .rFixed ∧ y.monState = .running ∧ y.monStopReq = true ∧ y.rxFifo = 1 :: [2, 3]) ∧
    (s.phase ≠ .rFixed ∧ s.rxFifo = []) :=
  ⟨⟨inv_with1 inv_monitoring _, by decide, by decide, by decide⟩, ⟨inv_with1 inv_stopping _, by decide, by decide, by decide⟩,
    by decide, by decide, by decide⟩

theorem witness_SilenceClosesTheFrame :
    let s := with1 .tick (monitoring 0 [] 0)
    let u := with1 .tick (withMonBuf 2 { monitoring 0 [1, 2] 24 with monOvfPend := true })
    (Inv s ∧ s.monState = .running ∧ s.inputs = .tick :: [] ∧ s.mtmr + 1 < s.cfg.tGap) ∧
    (Inv u ∧ u.monState = .running ∧ u.inputs = .tick :: [] ∧ u.mtmr + 1 = u.cfg.tGap) :=
  ⟨⟨inv_with1 inv_monitoring_new _, by decide, by decide, by decide⟩,
    ⟨inv_with1 inv_monitoring_full _, by decide, by decide, by decide⟩⟩

theorem witness_ReadFailureStopsTheMonitor :
    let s := with1 .rxError (monitoring 5 [5, 1] 24)
    Inv s ∧ s.monState = .running ∧ s.inputs = .rxError :: [] := ⟨inv_with1 inv_monitoring _, by decide, by decide⟩

theorem witness_StopTakesEffectWithinTheGap :
    let s := with1 .tick (stopping [1, 2] 24)
    Inv s ∧ s.monState = .running ∧ s.monStopReq = true ∧ s.inputs = .tick :: [] ∧ (∃ t, step s = .next t) ∧
      s.mtmr + 1 = s.cfg.tGap :=
  ⟨inv_with1 inv_stopping _, by decide, by decide, by decide, ⟨_, rfl⟩, by decide⟩

/-- Two bytes 24 ticks apart, one short of T_GAP, and the gap (M5, M6), in a buffer that holds them and in one that does
not. -/
theorem witness_SilenceGapFraming :
    let spaced : List (Byte × Nat) := [(1, 24)]
    let l : List Event := (spaced.flatMap fun p => .rxByte p.1 :: List.replicate p.2 .tick) ++
      .rxByte 2 :: (List.replicate 25 .tick ++ [])
    let s : State := { monitoring 0 [] 0 with inputs := l }
    let u : State := { withMonBuf 1 (monitoring 0 [] 0) with inputs := l }
    (Inv s ∧ s.monState = .running ∧ s.monStopReq = false ∧ s.monBuf = [] ∧ (∀ p ∈ spaced, p.2 < s.cfg.tGap) ∧
      s.inputs = (spaced.flatMap fun p => .rxByte p.1 :: List.replicate p.2 .tick) ++
        .rxByte 2 :: (List.replicate s.cfg.tGap .tick ++ []) ∧ spaced.length + 1 ≤ s.cfg.monBufMax) ∧
    (Inv u ∧ u.inputs = l ∧ u.cfg.monBufMax < spaced.length + 1) := by
  refine ⟨⟨inv_inputs inv_monitoring_new _, by decide, by decide, by decide, by decide, rfl, by decide⟩,
    inv_inputs ?_ _, rfl, by decide⟩
  constructor <;> decide

theorem witness_MonitorWritesOnlyItsOwn :
    let s := with1 .tick (monitoring 5 [5, 1] 24)
    Inv s ∧ s.monState = .running ∧ isHostEvent .tick = false ∧ isReset .tick = false ∧ s.inputs = .tick :: [] ∧
      ∃ t, step s = .next t :=
  ⟨inv_with1 inv_monitoring _, by decide, by decide, by decide, by decide, ⟨_, rfl⟩⟩

theorem witness_EveryStepKeepsTheInvariants :
    Inv (with1 (.rxByte 9) (receiving 8 [1, 2, 3] 99)) ∧ ∃ t, step (with1 (.rxByte 9) (receiving 8 [1, 2, 3] 99)) = .next t :=
  ⟨inv_with1 inv_receiving _, ⟨_, rfl⟩⟩

theorem witness_PortsOnlyGrow : ∃ t, step (with1 .writeOk (writing [1, 2])) = .next t := ⟨_, rfl⟩

theorem witness_ConfigurationIsConstantAndGatesTheTrace :
    (∃ t, step (with1 (cmd 0x20010000) (loaded [1, 2])) = .next t) ∧
      (with1 (cmd 0x20010000) (loaded [1, 2])).cfg.verbose = false := ⟨⟨_, rfl⟩, by decide⟩

/-- A step out of each mode by each column of R280, and what makes it. -/
theorem witness_ModesFollowTheTable :
    let opening := with1 (cmd 0x01000000) { State.reset with openAnswer := some true }
    let completing := with1 .tick (delaying false 8 24)
    let stopped := with1 .tick (stopping [1, 2] 24)
    (modeOf opening = .closed ∧ modeOf (stateOf (step opening)) = .ready ∧ stepCommand opening = some (.openPort 0)) ∧
    (modeOf (stepOn (cmd 0x02000000) opened) = .closed ∧ modeOf (stepOn (.reset 0) opened) = .closed ∧
      modeOf (stepOn (cmd 0x20000000) opened) = .transaction ∧ modeOf (stepOn (cmd 0x21000008) opened) = .transaction ∧
      modeOf (stepOn (cmd 0x22000008) opened) = .transaction ∧ modeOf (stepOn (cmd 0x30000005) opened) = .monitoring) ∧
    (modeOf completing = .transaction ∧ modeOf (stateOf (step completing)) = .ready) ∧
    (modeOf stopped = .monitoring ∧ modeOf (stateOf (step stopped)) = .ready) ∧
    Inv (with1 (cmd 0x01000000) State.reset) ∧ Inv (with1 (cmd 0x20000000) opened) ∧ Inv completing ∧ Inv stopped ∧
    modeOf opened = .ready := by
  refine ⟨by decide, by decide, by decide, by decide, ?_, inv_with1 inv_opened _, inv_with1 (inv_delaying false) _,
    inv_with1 inv_stopping _, by decide⟩
  constructor <;> decide

/-- Two response bytes with 99 ticks in all before the last, one short of T_RX. -/
theorem witness_TransferDeliversTheResponse :
    let spaced : List (Byte × Nat) := [(7, 60), (8, 39)]
    let l : List Event := .writeOk :: (List.replicate 25 .tick ++
      ((spaced.flatMap fun p => List.replicate p.2 .tick ++ [.rxByte p.1]) ++ []))
    let s : State := { transferring [1, 2, 3] 2 with inputs := l }
    Inv s ∧ s.phase = .sWrite ∧ s.curTransfer = true ∧ s.rxFifo = [] ∧ spaced ≠ [] ∧
      spaced.length = s.curExpected.toNat ∧ (spaced.map Prod.snd).sum < s.cfg.tRx ∧
      s.inputs = .writeOk :: (List.replicate s.cfg.tIfd .tick ++
        ((spaced.flatMap fun p => List.replicate p.2 .tick ++ [.rxByte p.1]) ++ [])) :=
  ⟨inv_inputs inv_transferring _, by decide, by decide, by decide, by decide, by decide, by decide, rfl⟩

theorem witness_TraceLineIsTheFormat :
    ([] : List Byte).length ≤ 258 ∧ (List.replicate 258 (0xAB : Byte)).length ≤ 258 :=
  ⟨by decide, by rw [List.length_replicate]⟩

end Sys2Proof.Tests
end

section
/-! The configuration of 00_scope.md: which configurations are well formed (R9, R10, R278), and that no step changes the
configuration or, with VERBOSE false, the trace (R9, R246, R301). -/

namespace Sys2Proof.Laws

open Sys2Proof.Machine

/-! ### The well-formed configurations -/

@[simp] theorem intervalsOk_eq (c : Config) : c.intervalsOk = true ↔ 1 ≤ c.tIfd ∧ 1 ≤ c.tRx ∧ 1 ≤ c.tSettle := by
  simp only [Config.intervalsOk, Bool.and_eq_true, decide_eq_true_eq, and_assoc]

@[simp] theorem gapOk_eq (c : Config) : c.gapOk = true ↔ c.tGap = c.tIfd := by
  simp only [Config.gapOk, beq_iff_eq]

@[simp] theorem fifoOk_eq (c : Config) : c.fifoOk = true ↔ 1 ≤ c.rxFifoDepth ∧ c.rxFifoDepth ≤ 65535 := by
  simp only [Config.fifoOk, Bool.and_eq_true, decide_eq_true_eq]

@[simp] theorem monBufOk_eq (c : Config) : c.monBufOk = true ↔ 1 ≤ c.monBufMax ∧ c.monBufMax ≤ 65535 := by
  simp only [Config.monBufOk, Bool.and_eq_true, decide_eq_true_eq]

/-- A ceiling is at most `n` exactly if the dividend is at most the product: the bound of R10 without its division. -/
theorem minGapUs_le {c : Config} (hb : 1 ≤ c.baud) (n : Nat) : c.minGapUs ≤ n ↔ 35000000 ≤ n * c.baud := by
  rw [Config.minGapUs, Nat.div_le_iff_le_mul_add_pred hb, Nat.mul_comm]
  exact Nat.add_le_add_iff_right

@[simp] theorem baudOk_eq (c : Config) :
    c.baudOk = true ↔ 1 ≤ c.baud ∧ 35000000 ≤ c.tIfd * c.tickUs * c.baud := by
  simp only [Config.baudOk, Bool.and_eq_true, decide_eq_true_eq]
  exact and_congr_right fun hb => minGapUs_le hb _

/-- The configurations of R9 and R10. -/
theorem config_wf_iff (c : Config) : c.wf = true ↔
    1 ≤ c.tIfd ∧ 1 ≤ c.tRx ∧ 1 ≤ c.tSettle ∧ c.tGap = c.tIfd ∧ (1 ≤ c.rxFifoDepth ∧ c.rxFifoDepth ≤ 65535) ∧
      (1 ≤ c.monBufMax ∧ c.monBufMax ≤ 65535) ∧ 1 ≤ c.baud ∧ 35000000 ≤ c.tIfd * c.tickUs * c.baud := by
  simp only [Config.wf, Bool.and_eq_true, intervalsOk_eq, gapOk_eq, fifoOk_eq, monBufOk_eq, baudOk_eq, and_assoc]

theorem step_illFormed {s : State} (h : s.cfg.wf = false) : step s = .refused .illFormedConfig := by
  rw [step, if_neg (by simp [h])]

/-- Settles O5: the checks of R9 one by one, and the ceiling of R10 as a product. -/
theorem onlyWellFormedConfigurationsRun : Obligations.OnlyWellFormedConfigurationsRun :=
  ⟨config_wf_iff, fun _ => step_illFormed⟩

/-! ### The configuration is constant and gates the trace -/

/-- What every operation of the block does to the configuration and the trace: it keeps the configuration, and with VERBOSE
false it keeps the trace (R9, R246). -/
def KeepsConfigGatesTrace (s t : State) : Prop := t.cfg = s.cfg ∧ (s.cfg.verbose = false → t.trace = s.trace)

theorem KeepsConfigGatesTrace.of_eq {s t : State} (hc : t.cfg = s.cfg) (ht : t.trace = s.trace) :
    KeepsConfigGatesTrace s t := ⟨hc, fun _ => ht⟩

theorem KeepsConfigGatesTrace.trans {s t u : State} (h : KeepsConfigGatesTrace s t) (h' : KeepsConfigGatesTrace t u) :
    KeepsConfigGatesTrace s u :=
  ⟨h'.1.trans h.1, fun hv => (h'.2 (by rw [h.1]; exact hv)).trans (h.2 hv)⟩

theorem quiesce_gates (s : State) : KeepsConfigGatesTrace s (quiesce s) := ⟨quiesce_cfg s, quiesce_trace_quiet s⟩

/-- Quiescence after an operation (R243). -/
theorem KeepsConfigGatesTrace.quiesce {s t : State} (h : KeepsConfigGatesTrace s t) :
    KeepsConfigGatesTrace s (quiesce t) := h.trans (quiesce_gates t)

theorem finishRx_gates (e : ErrCode) (s : State) : KeepsConfigGatesTrace s (finishRx e s) :=
  ⟨finishRx_cfg e s, finishRx_trace_quiet e s⟩

/-! #### Commands -/

theorem accepting_gates {checks : List (Bool × ErrCode)} {f : State → State} {s t : State}
    (h : accepting checks f s = .next t) (hf : KeepsConfigGatesTrace s (f s)) : KeepsConfigGatesTrace s t := by
  obtain ⟨e, -, he⟩ | ⟨-, he⟩ := accepting_cases checks f s
  · rw [he] at h; cases h; exact .of_eq rfl rfl
  · rw [he] at h; cases h; exact hf

/-- SEND and TRANSFER trace the frame under the guard of R246. -/
theorem beginSend_gates (append transfer : Bool) (n : Half) (s : State) :
    KeepsConfigGatesTrace s (beginSend append transfer n s) := by
  rw [beginSend_eq]
  exact ⟨rfl, fun hv => by simp [hv]⟩

theorem execOpen_gates {port : Byte} {s t : State} (h : execOpen port s = .next t) : KeepsConfigGatesTrace s t := by
  refine accepting_gates h ?_
  dsimp only
  split <;> exact .of_eq rfl rfl

theorem execClose_gates {s t : State} (h : execClose s = .next t) : KeepsConfigGatesTrace s t :=
  accepting_gates h (.of_eq (closeDevice_cfg s) (closeDevice_trace s))

theorem execCrcTx_gates {s t : State} (h : execCrcTx s = .next t) : KeepsConfigGatesTrace s t :=
  accepting_gates h (.of_eq rfl rfl)

theorem execCrcCheck_gates {s t : State} (h : execCrcCheck s = .next t) : KeepsConfigGatesTrace s t := by
  unfold execCrcCheck at h
  dsimp only at h
  split at h <;> (cases h; exact .of_eq rfl rfl)

theorem execReceive_gates {n : Half} {s t : State} (h : execReceive n s = .next t) : KeepsConfigGatesTrace s t :=
  accepting_gates h (.of_eq rfl rfl)

theorem execMonStart_gates {filter : Byte} {s t : State} (h : execMonStart filter s = .next t) :
    KeepsConfigGatesTrace s t :=
  accepting_gates h (.of_eq rfl rfl)

theorem exec_gates (i : Instr) {s t : State} (h : exec i s = .next t) : KeepsConfigGatesTrace s t := by
  cases i with
  | openPort port => exact execOpen_gates h
  | close => exact execClose_gates h
  | crcTx => exact execCrcTx_gates h
  | crcCheck => exact execCrcCheck_gates h
  | send append => exact accepting_gates h (beginSend_gates append false 0 s)
  | receive n => exact execReceive_gates h
  | transfer append n => exact accepting_gates h (beginSend_gates append true n s)
  | monStart filter => exact execMonStart_gates h
  | nop | clearFlags | crcInit | crcByte _ | monStop => cases h; exact .of_eq rfl rfl

/-! #### Events -/

theorem performAccess_gates {agent : Nat} {acc : Access} {s t : State} (h : performAccess agent acc s = .next t) :
    KeepsConfigGatesTrace s t := by
  obtain ⟨m, l, b, d, rfl⟩ | ⟨_, _, v, u, -, -, hu, rfl⟩ := performAccess_cases h
  · exact (KeepsConfigGatesTrace.of_eq rfl rfl).quiesce
  · have hsu : KeepsConfigGatesTrace s u := by
      obtain ⟨i, -, hi⟩ | ⟨-, rfl⟩ := issueCommand_cases hu
      · exact exec_gates i hi
      · exact .of_eq rfl rfl
    have ha : KeepsConfigGatesTrace u (answer agent .done u) := .of_eq rfl rfl
    exact (hsu.trans ha).quiesce

theorem perform_host_gates {e : Event} {s t : State} (h : perform e s = .next t) (he : isHostEvent e = true) :
    KeepsConfigGatesTrace s t := by
  obtain ⟨l, rfl, -⟩ | ⟨_, _, l, o, hp, -⟩ := perform_host_cases h he
  · exact .of_eq rfl rfl
  · have hs : KeepsConfigGatesTrace s { s with held := l, openAnswer := o } := .of_eq rfl rfl
    exact hs.trans (performAccess_gates hp)

theorem rxErrorTransport_gates (s : State) : KeepsConfigGatesTrace s (rxErrorTransport s) := by
  unfold rxErrorTransport
  split
  · exact finishRx_gates _ s
  · exact .of_eq rfl rfl

/-- A tick traces only where it ends a receive (R192, R194, R198). -/
theorem tickTransport_gates (s : State) : KeepsConfigGatesTrace s (tickTransport s) := by
  refine ⟨tickTransport_cfg s, fun hv => ?_⟩
  unfold tickTransport
  cases s.phase with
  | idle | sWrite => rfl
  | sIfd =>
    dsimp only
    repeat' split
    all_goals rfl
  | rFixed | rSettle =>
    dsimp only
    split
    · exact finishRx_trace_quiet _ _ hv
    · rfl

theorem resetBlock_gates (k : Nat) (s : State) : KeepsConfigGatesTrace s (resetBlock k s) := by
  unfold resetBlock
  split <;> exact .of_eq (by simp) (by simp)

theorem perform_gates (e : Event) {s t : State} (h : perform e s = .next t) : KeepsConfigGatesTrace s t := by
  cases e with
  | host _ _ | resume _ => exact perform_host_gates h rfl
  | openAnswer _ | writeOk | writeFail _ =>
    cases h; exact (KeepsConfigGatesTrace.of_eq rfl rfl).quiesce
  | rxByte b => cases h; exact (KeepsConfigGatesTrace.of_eq (rxByte_cfg b _) (rxByte_trace b _)).quiesce
  | rxError =>
    cases h
    exact ((rxErrorTransport_gates { s with openAnswer := none }).trans
      (.of_eq (rxErrorMonitor_cfg _) (rxErrorMonitor_trace _))).quiesce
  | tick =>
    cases h
    exact ((tickTransport_gates { s with openAnswer := none }).trans
      (.of_eq (tickMonitor_cfg _) (tickMonitor_trace _))).quiesce
  | reset k => cases h; exact resetBlock_gates k s

/-- Settles O57: every event keeps the configuration, and the trace has its guard VERBOSE wherever it grows. -/
theorem configurationIsConstantAndGatesTheTrace : Obligations.ConfigurationIsConstantAndGatesTheTrace := by
  intro s t h
  obtain ⟨-, e, inputs, draws, -, hp, -⟩ := step_next h
  have hs : KeepsConfigGatesTrace s { s with inputs := inputs, draws := draws } := .of_eq rfl rfl
  exact hs.trans (perform_gates e hp)

end Sys2Proof.Laws
end

section
/-! The invariants of 10_state.md R44: they hold after reset, and every step keeps them. A rule of an event leaves the
invariants but for what quiescence establishes (`Unsettled`), and quiescence restores them. With them, what Reset leaves
(R55). -/

namespace Sys2Proof.Laws

open Sys2Proof.Machine

/-! ### Going on, and acceptance -/

theorem andThen_next {o : Outcome} {f : State → State} {t : State} (h : andThen o f = .next t) :
    ∃ u, o = .next u ∧ t = f u := by
  cases o with
  | next u => cases h; exact ⟨u, rfl, rfl⟩
  | fault r => cases h
  | refused r => cases h

/-- What holds of a rejection, and of the performed command when every check passed, holds after the command (R262). -/
theorem accepting_elim {P : State → Prop} {checks : List (Bool × ErrCode)} {f : State → State} {s t : State}
    (h : accepting checks f s = .next t) (rejected : ∀ e, P (setErr e s))
    (accepted : (∀ c ∈ checks, c.1 = false) → P (f s)) : P t := by
  obtain ⟨e, -, he⟩ | ⟨hn, he⟩ := accepting_cases checks f s
  · rw [he] at h; cases h; exact rejected e
  · rw [he] at h; cases h; exact accepted (firstError_none _ hn)

theorem isOpen_check (s : State) : (!isOpen s) = false ↔ s.conn = .opened := by simp

theorem monRunning_check (s : State) : monRunning s = false ↔ s.monState ≠ .running := by
  rw [Bool.eq_false_iff, Ne, monRunning_eq]

theorem txLenTooLong_check (s : State) : txLenTooLong s = false ↔ s.txLen.toNat ≤ 256 := by simp [txLenTooLong]

theorem expectTooLong_check (n : Half) : expectTooLong n = false ↔ n.toNat ≤ 256 := by simp [expectTooLong]

theorem filterTooLarge_check (f : Byte) : filterTooLarge f = false ↔ f.toNat ≤ 63 := by simp [filterTooLarge]

/-- CRC_CHECK sets the accumulator and `err`, and draws for UNWRITTEN entries (R143). -/
theorem execCrcCheck_next {s t : State} (h : execCrcCheck s = .next t) :
    ∃ e acc d, t = setErr e (setAcc acc { s with draws := d }) := by
  unfold execCrcCheck at h
  dsimp only at h
  split at h
  · cases h; exact ⟨_, _, s.draws, rfl⟩
  · cases h; exact ⟨_, _, _, rfl⟩

theorem frameOf_length_le (append : Bool) (payload : List Byte) :
    (frameOf append payload).length ≤ payload.length + 2 := by
  cases append <;> simp [frameOf, withCrc]

/-! ### Shared operations before quiescence -/

section
variable {s : State}

theorem unsettled_setErr (e : ErrCode) (hs : Unsettled s) (hp : s.phase = .idle) : Unsettled (setErr e s) :=
  { hs with busyNoError := fun h => absurd hp h }

theorem unsettled_setAcc (acc : Byte × Byte) (d : Nat) (hs : Unsettled s) :
    Unsettled (setAcc acc { s with draws := d }) :=
  { hs with }

theorem unsettled_complete (e : ErrCode) (hs : Unsettled s) : Unsettled (complete e s) :=
  { hs with
    monitorExclusive := fun h => ⟨rfl, (hs.monitorExclusive h).2⟩
    busyIsOpen := fun h => absurd rfl h
    fixedReceive := nofun
    settleReceive := nofun
    ifdTimer := nofun
    fixedTimer := nofun
    settleTimer := nofun
    shadowBound := Nat.zero_le _
    expectedBound := Nat.zero_le _
    busyNoError := fun h => absurd rfl h
    idleContext := fun _ => ⟨rfl, rfl, rfl, rfl⟩ }

/-- A receive begins with an open connection, no monitor, and `err` NONE (R188). -/
theorem unsettled_startReceive (n : Half) (hs : Unsettled s) (hc : s.conn = .opened) (hm : s.monState ≠ .running)
    (hn : n.toNat ≤ 256) (he : s.err = .none) : Unsettled (startReceive n s) := by
  obtain ⟨-, hrx, hsettle, -⟩ := config_bounds hs.config
  have hphase : (startReceive n s).phase = .rSettle ∧ n = 0 ∨ (startReceive n s).phase = .rFixed ∧ n ≠ 0 := by
    by_cases h0 : n = 0
    · exact .inl ⟨if_pos h0, h0⟩
    · exact .inr ⟨if_neg h0, h0⟩
  exact
    { hs with
      monitorExclusive := fun h => absurd h hm
      busyIsOpen := fun _ => hc
      fixedReceive := fun hp => by
        rw [startReceive_rxLen, startReceive_rxExpect]
        obtain ⟨hp', -⟩ | ⟨-, h0⟩ := hphase
        · rw [hp'] at hp; cases hp
        · exact ⟨Nat.pos_of_ne_zero fun h => h0 (BitVec.eq_of_toNat_eq h), hn⟩
      settleReceive := fun hp => by
        obtain ⟨-, h0⟩ | ⟨hp', -⟩ := hphase
        · exact ⟨rfl, h0⟩
        · rw [hp'] at hp; cases hp
      ifdTimer := fun hp => by obtain ⟨hp', -⟩ | ⟨hp', -⟩ := hphase <;> (rw [hp'] at hp; cases hp)
      fixedTimer := fun _ => hrx
      settleTimer := fun _ => hsettle
      rxLenBound := Nat.zero_le _
      received := fun i hi => absurd hi (Nat.not_lt_zero i)
      busyNoError := fun _ => he
      idleContext := fun hp => by obtain ⟨hp', -⟩ | ⟨hp', -⟩ := hphase <;> (rw [hp'] at hp; cases hp) }

theorem unsettled_stopRun (hs : Unsettled s) : Unsettled (stopRun s) := by
  obtain ⟨hifd, -, -, hgap, -⟩ := config_bounds hs.config
  exact
    { hs with
      monitorExclusive := nofun
      monitorTimer := show 0 < s.cfg.tGap by omega
      monBufBound := Nat.zero_le _
      monitorAtRest := fun _ => ⟨rfl, rfl, rfl, rfl⟩
      overflowFull := nofun }

/-- The connection changes in IDLE only, and stays open under a running monitor (R170, R172). -/
theorem unsettled_connection (c : Conn) (hs : Unsettled s) (hp : s.phase = .idle)
    (hm : s.monState = .running → c = .opened) : Unsettled { s with conn := c, rxFifo := [] } :=
  { hs with
    monitorExclusive := fun h => ⟨hp, hm h⟩
    busyIsOpen := fun h => absurd hp h
    fifoBound := Nat.zero_le _
    closedEmpty := fun _ => rfl }

/-! ### Commands -/

theorem unsettled_execOpen {port : Byte} {t : State} (h : execOpen port s = .next t) (hs : Unsettled s)
    (hp : s.phase = .idle) : Unsettled t := by
  refine accepting_elim h (fun e => unsettled_setErr e hs hp) fun _ => ?_
  have asked : Unsettled
      { s with
        openAnswer := (drawOpenOk s).2.1, draws := (drawOpenOk s).2.2,
        devOps := s.devOps ++ [.openPort port s.cfg.baud] } := { hs with }
  dsimp only
  split
  · exact unsettled_setErr _ (unsettled_connection .opened asked hp fun _ => rfl) hp
  · exact unsettled_setErr _ asked hp

theorem unsettled_execClose {t : State} (h : execClose s = .next t) (hs : Unsettled s) (hp : s.phase = .idle) :
    Unsettled t := by
  refine accepting_elim h (fun e => unsettled_setErr e hs hp) fun hc => ?_
  have hm : s.monState ≠ .running := (monRunning_check s).mp (by simpa using hc)
  have closed : Unsettled { s with conn := .closed, rxFifo := [] } :=
    unsettled_connection .closed hs hp fun h => absurd h hm
  unfold closeDevice
  split
  · exact unsettled_setErr .none { closed with } hp
  · exact unsettled_setErr .none closed hp

/-- An accepted SEND or TRANSFER (R174, R178). -/
theorem unsettled_beginSend (append transfer : Bool) (n : Half) (hs : Unsettled s) (hc : s.conn = .opened)
    (hm : s.monState ≠ .running) (hl : s.txLen.toNat ≤ 256) (hn : n.toNat ≤ 256) :
    Unsettled (beginSend append transfer n s) := by
  have hpayload : (txFrame s).1.length = s.txLen.toNat := useEntries_length ..
  have hframe := frameOf_length_le append (txFrame s).1
  rw [beginSend_eq]
  exact
    { hs with
      monitorExclusive := fun h => absurd h hm
      busyIsOpen := fun _ => hc
      fixedReceive := nofun
      settleReceive := nofun
      ifdTimer := nofun
      fixedTimer := nofun
      settleTimer := nofun
      shadowBound := show (frameOf append (txFrame s).1).length ≤ 258 by omega
      fifoBound := Nat.zero_le _
      expectedBound := hn
      busyNoError := fun _ => rfl
      idleContext := nofun
      closedEmpty := fun _ => rfl }

theorem unsettled_execCrcTx {t : State} (h : execCrcTx s = .next t) (hs : Unsettled s) (hp : s.phase = .idle) :
    Unsettled t :=
  accepting_elim h (fun e => unsettled_setErr e hs hp) fun _ => unsettled_setErr .none (unsettled_setAcc _ _ hs) hp

theorem unsettled_execReceive {n : Half} {t : State} (h : execReceive n s = .next t) (hs : Unsettled s)
    (hp : s.phase = .idle) : Unsettled t := by
  refine accepting_elim h (fun e => unsettled_setErr e hs hp) fun hc => ?_
  simp only [List.forall_mem_cons, isOpen_check, monRunning_check, expectTooLong_check] at hc
  obtain ⟨hopen, hm, hn, -⟩ := hc
  obtain ⟨htmr, -, -, hshadow⟩ := hs.idleContext hp
  have ready : Unsettled { s with curTransfer := false, curExpected := 0 } :=
    { hs with expectedBound := Nat.zero_le _, idleContext := fun _ => ⟨htmr, rfl, rfl, hshadow⟩ }
  exact unsettled_startReceive n (unsettled_setErr .none ready hp) hopen hm hn rfl

theorem unsettled_execMonStart {f : Byte} {t : State} (h : execMonStart f s = .next t) (hs : Unsettled s)
    (hp : s.phase = .idle) : Unsettled t := by
  refine accepting_elim h (fun e => unsettled_setErr e hs hp) fun hc => ?_
  simp only [List.forall_mem_cons, isOpen_check, monRunning_check, filterTooLarge_check] at hc
  obtain ⟨hopen, -, hf, -⟩ := hc
  obtain ⟨hifd, -, -, hgap, -⟩ := config_bounds hs.config
  have started : Unsettled
      { s with
        monState := .running, monFilter := f, monStopReq := false, monBuf := [], monOvfPend := false, monErr := false,
        mtmr := 0 } :=
    { hs with
      monitorExclusive := fun _ => ⟨hp, hopen⟩
      monitorTimer := show 0 < s.cfg.tGap by omega
      monBufBound := Nat.zero_le _
      filterBound := hf
      monitorAtRest := fun h => absurd rfl h
      overflowFull := nofun }
  exact unsettled_setErr .none started hp

theorem unsettled_execMonStop {t : State} (h : execMonStop s = .next t) (hs : Unsettled s) (hp : s.phase = .idle) :
    Unsettled t := by
  cases h
  have requested : Unsettled { s with monStopReq := if monRunning s then true else s.monStopReq } :=
    { hs with
      monitorAtRest := fun h => by
        rw [(monRunning_check s).mpr h]
        exact hs.monitorAtRest h }
  exact unsettled_setErr .none requested hp

/-- Every command, run in IDLE (R242). -/
theorem unsettled_exec (i : Instr) {t : State} (h : exec i s = .next t) (hs : Unsettled s) (hp : s.phase = .idle) :
    Unsettled t := by
  cases i with
  | nop => cases h; exact hs
  | openPort port => exact unsettled_execOpen h hs hp
  | close => exact unsettled_execClose h hs hp
  | clearFlags => cases h; exact { unsettled_setErr .none hs hp with }
  | crcInit => cases h; exact unsettled_setErr .none (unsettled_setAcc crcSeed s.draws hs) hp
  | crcByte b => cases h; exact unsettled_setErr .none (unsettled_setAcc _ s.draws hs) hp
  | crcTx => exact unsettled_execCrcTx h hs hp
  | crcCheck =>
    obtain ⟨e, acc, d, rfl⟩ := execCrcCheck_next h
    exact unsettled_setErr e (unsettled_setAcc acc d hs) hp
  | send append =>
    refine accepting_elim h (fun e => unsettled_setErr e hs hp) fun hc => ?_
    simp only [List.forall_mem_cons, isOpen_check, monRunning_check, txLenTooLong_check] at hc
    obtain ⟨hopen, hm, hl, -⟩ := hc
    exact unsettled_beginSend append false 0 hs hopen hm hl (Nat.zero_le _)
  | receive n => exact unsettled_execReceive h hs hp
  | transfer append n =>
    refine accepting_elim h (fun e => unsettled_setErr e hs hp) fun hc => ?_
    simp only [List.forall_mem_cons, isOpen_check, monRunning_check, Bool.or_eq_false_iff, txLenTooLong_check,
      expectTooLong_check] at hc
    obtain ⟨hopen, hm, ⟨hl, hn⟩, -⟩ := hc
    exact unsettled_beginSend append true n hs hopen hm hl hn
  | monStart f => exact unsettled_execMonStart h hs hp
  | monStop => exact unsettled_execMonStop h hs hp

/-! ### The host bus -/

/-- A CMD write that does not hold finds the block in IDLE (R281). -/
theorem idle_of_cmd_performs {acc : Access} {off : Nat} (hn : holds acc s = false)
    (ho : offsetOf s.cfg acc.addr = some off) (ht : target off acc.width = some .cmd) (hw : acc.isWrite = true) :
    s.phase = .idle := by
  have hc : isCmdWrite s.cfg acc = true := by simp [isCmdWrite, hw, ho, ht]
  by_contra hp
  rw [holds, hc, (busy_eq s).mpr hp] at hn
  cases hn

theorem unsettled_writeReg {r : Reg} {v : Word} {t : State} (h : writeReg r v s = .next t) (hs : Unsettled s)
    (hp : r = .cmd → s.phase = .idle) : Unsettled t := by
  cases r with
  | cmd =>
    obtain ⟨i, -, hi⟩ | ⟨-, rfl⟩ := issueCommand_cases h
    · exact unsettled_exec i hi hs (hp rfl)
    · exact unsettled_setErr _ hs (hp rfl)
  | txLen => cases h; exact { hs with }
  | txBuf i => cases h; exact { hs with txbufWf := write_wf _ _ _ hs.txbufWf }
  | status | crcAcc | rxLen | rxExpect | rxAvail | monFilter | rxBuf _ => cases h; exact hs

theorem unsettled_accessReg {agent : Nat} {r : Reg} {acc : Access} {t : State} (h : accessReg agent r acc s = .next t)
    (hs : Unsettled s) (hp : acc.isWrite = true → r = .cmd → s.phase = .idle) : Unsettled t := by
  cases acc with
  | read width addr =>
    cases h
    obtain ⟨d, hd⟩ := readReg_draws r s
    rw [hd]
    exact { hs with }
  | write width addr v =>
    obtain ⟨u, hu, rfl⟩ := andThen_next h
    exact { unsettled_writeReg hu hs (hp rfl) with }

theorem inv_performAccess {agent : Nat} {acc : Access} {t : State} (h : performAccess agent acc s = .next t)
    (hs : Unsettled s) (hn : holds acc s = false) : Inv t := by
  unfold performAccess at h
  split at h
  · cases h
  · rename_i off ho
    split at h
    · cases h
      exact inv_quiesce { hs with }
    · rename_i r hr
      obtain ⟨u, hu, rfl⟩ := andThen_next h
      exact inv_quiesce (unsettled_accessReg hu hs fun hw hcmd => idle_of_cmd_performs hn ho (hcmd ▸ hr) hw)

theorem inv_issueAccess {agent : Nat} {acc : Access} {t : State} (h : issueAccess agent acc s = .next t) (hs : Inv s)
    (hw : (offsetOf s.cfg acc.addr).isSome = true) : Inv t := by
  unfold issueAccess at h
  split at h
  · cases h
    exact
      { hs with
        heldInWindow := fun x hx => by
          obtain hx | hx := List.mem_append.mp hx
          · exact hs.heldInWindow x hx
          · rw [List.mem_singleton.mp hx]; exact hw }
  · rename_i hc
    rw [Bool.or_eq_true, not_or, Bool.not_eq_true, Bool.not_eq_true] at hc
    exact inv_performAccess h (unsettled_of_inv hs) hc.2

theorem inv_resumeAccess {agent : Nat} {t : State} (h : resumeAccess agent s = .next t) (hs : Inv s) : Inv t := by
  unfold resumeAccess at h
  split at h
  · cases h
  · rename_i found others ht
    split at h
    · cases h
    · rename_i hc
      have hmem := (takeHeld_mem _ _ _ _ ht).2.2
      have hs' : Unsettled { s with held := others, openAnswer := found.openAnswer } :=
        { unsettled_of_inv hs with heldInWindow := fun x hx => hs.heldInWindow x (hmem x hx) }
      exact inv_performAccess h hs' (Bool.eq_false_iff.mpr hc)

/-! ### The device and the ticks -/

theorem unsettled_rxByte (b : Byte) (hs : Unsettled s) : Unsettled (rxByte b s) := by
  unfold rxByte
  split
  · rename_i hopen
    split
    · rename_i hroom
      exact unsettled_fifo _ hs (by rw [List.length_append]; exact hroom) ((isOpen_eq s).mp hopen)
    · exact { hs with }
  · exact hs

/-- A receive that ends with what it has collected (R192, R196). -/
theorem unsettled_finishRx_as_is (e : ErrCode) (k : Nat) (hs : Unsettled s) (hp : s.phase ≠ .idle) :
    Unsettled (finishRx e { s with tmr := k }) :=
  unsettled_finishRx s.rxbuf s.rxLen s.rxFifo s.rxOvr k hs (hs.busyIsOpen hp) hs.rxbufWf hs.rxLenBound hs.received
    hs.fifoBound

/-- The drain at the end of the settle delay fills the entries it counts (R194). -/
theorem unsettled_finishRx_drainFree (e : ErrCode) (k : Nat) (hs : Unsettled s) (hp : s.phase ≠ .idle) :
    Unsettled (finishRx e (drainFree { s with tmr := k })) := by
  have hcount : (BitVec.ofNat 16 (min s.rxFifo.length Config.bufSize)).toNat = min s.rxFifo.length 256 := by
    rw [BitVec.toNat_ofNat, Config.bufSize]; omega
  have hfifo := hs.fifoBound
  refine unsettled_finishRx (s := s) _ _ _ _ k hs (hs.busyIsOpen hp) (writeAll_wf _ _ _ hs.rxbufWf) ?_ ?_ ?_
  · rw [hcount]; exact Nat.min_le_right ..
  · intro i hi
    rw [hcount] at hi
    have hread := read_writeAll_inside (s.rxFifo.take (min s.rxFifo.length Config.bufSize)) s.rxbuf 0 i
      (by rw [List.length_take, Config.bufSize]; omega) (by rw [List.length_take, Config.bufSize]; omega)
    rw [Nat.zero_add] at hread
    rw [hread, List.getElem?_take_of_lt (by rw [Config.bufSize]; omega), List.getElem?_eq_getElem (by omega)]
    rfl
  · rw [List.length_drop]; exact Nat.le_trans (Nat.sub_le ..) hfifo

theorem unsettled_rxErrorTransport (hs : Unsettled s) : Unsettled (rxErrorTransport s) := by
  unfold rxErrorTransport
  split
  · rename_i hr
    have hp : s.phase ≠ .idle := by
      obtain hp | hp := (readPending_eq s).mp hr <;> (rw [hp]; decide)
    exact unsettled_finishRx_as_is .readError s.tmr hs hp
  · exact hs

theorem unsettled_rxErrorMonitor (hs : Unsettled s) : Unsettled (rxErrorMonitor s) := by
  unfold rxErrorMonitor
  split
  · split
    · exact unsettled_stopRun hs
    · exact unsettled_stopRun { hs with }
  · exact hs

theorem unsettled_writeOk (hs : Unsettled s) (hp : s.phase = .sWrite) : Unsettled (writeOk s) := by
  have hbusy : s.phase ≠ .idle := by rw [hp]; decide
  obtain ⟨hifd, -⟩ := config_bounds hs.config
  exact
    { hs with
      monitorExclusive := fun h => absurd (hs.monitorExclusive h).1 hbusy
      busyIsOpen := fun _ => hs.busyIsOpen hbusy
      fixedReceive := nofun
      settleReceive := nofun
      ifdTimer := fun _ => hifd
      fixedTimer := nofun
      settleTimer := nofun
      busyNoError := fun _ => hs.busyNoError hbusy
      idleContext := nofun }

/-- A transaction goes on with its timer below the limit of its phase (R44(f)). -/
theorem unsettled_tmr (k : Nat) (hs : Unsettled s) (hp : s.phase ≠ .idle) (hifd : s.phase = .sIfd → k < s.cfg.tIfd)
    (hfixed : s.phase = .rFixed → k < s.cfg.tRx) (hsettle : s.phase = .rSettle → k < s.cfg.tSettle) :
    Unsettled { s with tmr := k } :=
  { hs with
    ifdTimer := hifd
    fixedTimer := hfixed
    settleTimer := hsettle
    idleContext := fun h => absurd h hp }

theorem unsettled_tickTransport (hs : Unsettled s) : Unsettled (tickTransport s) := by
  unfold tickTransport
  dsimp only
  split
  case h_1 | h_2 => exact hs
  case h_3 hp =>
    have hbusy : s.phase ≠ .idle := by rw [hp]; decide
    have htmr := hs.ifdTimer hp
    split
    · split
      · have hm : s.monState ≠ .running := fun h => hbusy (hs.monitorExclusive h).1
        show Unsettled (startReceive s.curExpected s)
        exact unsettled_startReceive s.curExpected hs (hs.busyIsOpen hbusy) hm hs.expectedBound (hs.busyNoError hbusy)
      · show Unsettled (complete .none s)
        exact unsettled_complete .none hs
    · exact unsettled_tmr _ hs hbusy (fun _ => by omega) (by simp [hp]) (by simp [hp])
  case h_4 hp =>
    have hbusy : s.phase ≠ .idle := by rw [hp]; decide
    have htmr := hs.fixedTimer hp
    split
    · exact unsettled_finishRx_as_is _ _ hs hbusy
    · exact unsettled_tmr _ hs hbusy (by simp [hp]) (fun _ => by omega) (by simp [hp])
  case h_5 hp =>
    have hbusy : s.phase ≠ .idle := by rw [hp]; decide
    have htmr := hs.settleTimer hp
    split
    · exact unsettled_finishRx_drainFree _ _ hs hbusy
    · exact unsettled_tmr _ hs hbusy (by simp [hp]) (by simp [hp]) (fun _ => by omega)

/-- Closing a frame empties `mon_buf`, whatever the silence timer reads (R218). -/
theorem unsettled_closeFrame (hs : Unsettled { s with mtmr := 0 }) : Unsettled { closeFrame s with mtmr := 0 } := by
  have emptied : Unsettled { s with mtmr := 0, monBuf := [], monOvfPend := false } :=
    { hs with
      monBufBound := Nat.zero_le _
      monitorAtRest := fun h => ⟨rfl, rfl, (hs.monitorAtRest h).2.2⟩
      overflowFull := nofun }
  unfold closeFrame
  split
  · exact hs
  · dsimp only
    split
    · exact { emptied with }
    · split
      · exact { emptied with }
      · exact emptied

/-- The loop head stops the run or restarts the silence timer (R214). -/
theorem unsettled_nextAttempt (hs : Unsettled { s with mtmr := 0 }) : Unsettled (nextAttempt s) := by
  unfold nextAttempt
  split
  · show Unsettled (stopRun { s with mtmr := 0 })
    exact unsettled_stopRun hs
  · exact hs

theorem unsettled_tickMonitor (hs : Unsettled s) : Unsettled (tickMonitor s) := by
  obtain ⟨hifd, -, -, hgap, -⟩ := config_bounds hs.config
  have htmr := hs.monitorTimer
  unfold tickMonitor
  split
  · rename_i hr
    have hrunning := (monRunning_eq s).mp hr
    dsimp only
    split
    · have rewound : Unsettled { s with mtmr := 0 } :=
        { hs with
          monitorTimer := show 0 < s.cfg.tGap by omega
          monitorAtRest := fun h => absurd hrunning h }
      exact unsettled_nextAttempt (unsettled_closeFrame rewound)
    · exact
        { hs with
          monitorTimer := show s.mtmr + 1 < s.cfg.tGap by omega
          monitorAtRest := fun h => absurd hrunning h }
  · exact hs

/-! ### Reset -/

/-- Every field at its reset value, and a well-formed configuration (R55). -/
theorem inv_clearBlock (hw : s.cfg.wf = true) (hh : ∀ x ∈ s.held, (offsetOf s.cfg x.acc.addr).isSome = true) :
    Inv (clearBlock s) := by
  obtain ⟨hifd, -, -, hgap, -⟩ := config_bounds hw
  exact
    { config := hw
      monitorExclusive := nofun
      busyIsOpen := fun h => absurd rfl h
      fixedReceive := nofun
      settleReceive := nofun
      monitorTakesAll := nofun
      ifdTimer := nofun
      fixedTimer := nofun
      settleTimer := nofun
      monitorTimer := show 0 < s.cfg.tGap by omega
      shadowBound := Nat.zero_le _
      fifoBound := Nat.zero_le _
      monBufBound := Nat.zero_le _
      filterBound := Nat.zero_le _
      rxLenBound := Nat.zero_le _
      expectedBound := Nat.zero_le _
      txbufWf := rfl
      rxbufWf := rfl
      received := fun i hi => absurd hi (Nat.not_lt_zero i)
      busyNoError := fun _ => rfl
      idleContext := fun _ => ⟨rfl, rfl, rfl, rfl⟩
      closedEmpty := fun _ => rfl
      monitorAtRest := fun _ => ⟨rfl, rfl, rfl, rfl⟩
      overflowFull := nofun
      heldInWindow := hh }

theorem resetBlock_eq (k : Nat) (s : State) : resetBlock k s = clearBlock
    { s with
      wire := if s.phase = .sWrite then s.wire ++ s.txShadow.take k else s.wire
      devOps := if s.conn = .opened then s.devOps ++ [.close] else s.devOps } := by
  by_cases hp : s.phase = .sWrite <;> by_cases hc : s.conn = .opened <;>
    simp [resetBlock, closeDevice, isOpen, emitWire, drive, clearBlock, hp, hc]

theorem inv_resetBlock (k : Nat) (hs : Inv s) : Inv (resetBlock k s) := by
  rw [resetBlock_eq]
  exact inv_clearBlock hs.config hs.heldInWindow

/-! ### Every step -/

theorem inv_perform {e : Event} {t : State} (h : perform e s = .next t) (he : enabled e s = true) (hs : Inv s) :
    Inv t := by
  have hu : Unsettled { s with openAnswer := none } := { unsettled_of_inv hs with }
  cases e with
  | host agent acc => exact inv_issueAccess h hs he
  | resume agent => exact inv_resumeAccess h hs
  | openAnswer ok => cases h; exact inv_quiesce { hu with }
  | rxByte b => cases h; exact inv_quiesce (unsettled_rxByte b hu)
  | rxError => cases h; exact inv_quiesce (unsettled_rxErrorMonitor (unsettled_rxErrorTransport hu))
  | writeOk => cases h; exact inv_quiesce (unsettled_writeOk hu (of_decide_eq_true he))
  | writeFail k => cases h; exact inv_quiesce (unsettled_complete .writeError { hu with })
  | tick => cases h; exact inv_quiesce (unsettled_tickMonitor (unsettled_tickTransport hu))
  | reset k => cases h; exact inv_resetBlock k hs

end

/-- Settles O55: each event's rule leaves `Unsettled`, and quiescence makes it `Inv`. -/
theorem everyStepKeepsTheInvariants : Obligations.EveryStepKeepsTheInvariants := by
  intro s t hs h
  obtain ⟨-, e, inputs, draws, he, hp, -⟩ := step_next h
  exact inv_perform hp he { hs with }

/-- Settles O54: the state after reset is a cleared block with the default configuration and nothing held. -/
theorem invariantsHoldAtReset : Obligations.InvariantsHoldAtReset :=
  inv_clearBlock (s := State.reset) (by decide) (fun _ hx => nomatch hx)

/-- Settles O7: the ports Reset writes are those of `resetBlock_eq`, and every other field is `clearBlock`'s. -/
theorem resetSetsEveryField : Obligations.ResetSetsEveryField := by
  intro s k rest hw hi
  rw [step_enabled s _ rest hw hi rfl]
  exact congrArg _ (resetBlock_eq k { s with inputs := rest })

end Sys2Proof.Laws
end

section
/-! The host's view of the registers: the fields of STATUS (10_state.md R45), and a read or a write of each register other
than CMD (R46 to R54, 20_memory.md R65, R68). -/

namespace Sys2Proof.Laws

open Sys2Proof.Machine

/-! ### STATUS -/

theorem statusWord_flags (s : State) :
    (statusWord s).getLsbD 0 = busy s ∧ (statusWord s).getLsbD 1 = isOpen s ∧
    (statusWord s).getLsbD 4 = s.monStopReq ∧ (statusWord s).getLsbD 5 = s.monErr ∧
    (statusWord s).getLsbD 6 = s.rxOvr ∧ (statusWord s).getLsbD 7 = s.monOvf := by
  simp only [statusWord, BitVec.getLsbD_append]
  simp

theorem statusWord_monState (s : State) : (statusWord s).extractLsb' 2 2 = s.monState.code := by
  ext i hi
  simp only [statusWord, BitVec.getElem_extractLsb', BitVec.getLsbD_append]
  interval_cases i <;> simp

theorem statusWord_err (s : State) : (statusWord s).extractLsb' 8 8 = s.err.code := by
  ext i hi
  simp only [statusWord, BitVec.getElem_extractLsb', BitVec.getLsbD_append]
  interval_cases i <;> simp

theorem statusWord_phase (s : State) : (statusWord s).extractLsb' 16 4 = s.phase.code := by
  ext i hi
  simp only [statusWord, BitVec.getElem_extractLsb', BitVec.getLsbD_append]
  interval_cases i <;> simp

theorem statusWord_reserved (s : State) : (statusWord s).extractLsb' 20 12 = 0 := by
  ext i hi
  simp only [statusWord, BitVec.getElem_extractLsb', BitVec.getLsbD_append]
  interval_cases i <;> simp

/-- Settles O32: STATUS read back field by field. -/
theorem statusFieldsRead : Obligations.StatusFieldsRead := by
  refine ⟨fun s => ?_, rfl, rfl, rfl, rfl, rfl, rfl, rfl, rfl, rfl, rfl, rfl, rfl⟩
  obtain ⟨hbusy, hopen, hstop, herr, hrx, hmon⟩ := statusWord_flags s
  refine ⟨hbusy, hopen, ?_, hstop, herr, hrx, hmon, statusWord_err s, ?_, statusWord_reserved s⟩
  · rw [statusWord_monState]; cases s.monState <;> rfl
  · rw [statusWord_phase]; cases s.phase <;> rfl

/-! ### Reads and writes -/

/-- Settles O33: a read is never a CMD write, so it does not hold, and in a quiet state it only answers. -/
theorem hostReadsTheRegister : Obligations.HostReadsTheRegister := by
  intro s agent off r rest hs hh hi ht
  obtain ⟨-, -, -, hw⟩ := target_some ht
  have ho : offsetOf s.cfg (Access.read 4 (s.cfg.base + off)).addr = some off := offsetOf_some.mpr ⟨rfl, hw⟩
  have hn : holds (.read 4 (s.cfg.base + off)) s = false := not_holds_of_not_cmd ho ht nofun
  have hfifo : s.rxFifo.length < 65536 := by
    have hb := hs.fifoBound
    have hd := (config_wf_iff s.cfg).mp hs.config
    omega
  rw [step_host s agent _ rest hs.config hi (by rw [ho]; rfl) hh hn]
  exact performAccess_read agent off r { s with inputs := rest } (quiet_of_inv { hs with }) hfifo ht

/-- Settles O34: a write that reaches a register other than CMD does not hold, and leaves a quiet state quiet. -/
theorem hostWritesTheRegister : Obligations.HostWritesTheRegister := by
  intro s agent off r v rest hs hh hi ht hr
  obtain ⟨-, -, -, hw⟩ := target_some ht
  have ho : offsetOf s.cfg (Access.write 4 (s.cfg.base + off) v).addr = some off := offsetOf_some.mpr ⟨rfl, hw⟩
  have hn : holds (.write 4 (s.cfg.base + off) v) s = false := not_holds_of_not_cmd ho ht fun _ => hr
  rw [step_host s agent _ rest hs.config hi (by rw [ho]; rfl) hh hn]
  exact performAccess_write agent off r v { s with inputs := rest } (quiet_of_inv { hs with }) ht hr

end Sys2Proof.Laws
end

section
/-! What a command and a step can do to the buffers, the connection, the sticky flags and the output ports (10_state.md
R23, R27, R28, R35, R43). A step runs one command, or is Reset, or carries these fields on (`step_cases`). -/

namespace Sys2Proof.Laws

open Sys2Proof.Machine

/-! ### What each command can do -/

/-- What a command may change (R27, R28, R43): neither buffer, `tx_len`, the line nor the reports. -/
abbrev CommandChanges (s t : State) : Prop :=
  t = { s with
    conn := t.conn, accHi := t.accHi, accLo := t.accLo, rxLen := t.rxLen, rxExpect := t.rxExpect, phase := t.phase,
    tmr := t.tmr, curTransfer := t.curTransfer, curExpected := t.curExpected, txShadow := t.txShadow,
    rxFifo := t.rxFifo, err := t.err, rxOvr := t.rxOvr, monOvf := t.monOvf, monErr := t.monErr,
    monState := t.monState, monFilter := t.monFilter, monStopReq := t.monStopReq, monBuf := t.monBuf,
    monOvfPend := t.monOvfPend, mtmr := t.mtmr, trace := t.trace, devOps := t.devOps, openAnswer := t.openAnswer,
    draws := t.draws }

/-- What becomes of the connection: only an OPEN opens it and only a CLOSE closes it (R23). -/
def ConnAfter (i : Instr) (s t : State) : Prop :=
  t.conn = s.conn ∨ (∃ p, i = .openPort p ∧ t.conn = .opened) ∨ (i = .close ∧ t.conn = .closed)

/-- What becomes of the sticky flags: only CLEAR_FLAGS writes them, but for MON_START and `mon_err` (R35). -/
def FlagsAfter (i : Instr) (s t : State) : Prop :=
  i = .clearFlags ∨
    (t.rxOvr = s.rxOvr ∧ t.monOvf = s.monOvf ∧ (t.monErr = s.monErr ∨ ∃ f, i = .monStart f))

/-- What a command can do, as far as the claims about steps look at it. -/
structure CommandEffect (i : Instr) (s t : State) : Prop where
  changes : CommandChanges s t
  conn    : ConnAfter i s t
  flags   : FlagsAfter i s t
  trace   : s.trace <+: t.trace
  devOps  : s.devOps <+: t.devOps

/-- A command that touches no connection, flag or port. -/
theorem CommandEffect.of_inner {i : Instr} {s t : State} (hc : CommandChanges s t)
    (h : (t.conn, t.rxOvr, t.monOvf, t.monErr, t.trace, t.devOps) =
      (s.conn, s.rxOvr, s.monOvf, s.monErr, s.trace, s.devOps)) : CommandEffect i s t := by
  simp only [Prod.mk.injEq] at h
  obtain ⟨hconn, hovr, hovf, herr, htrace, hops⟩ := h
  exact ⟨hc, .inl hconn, .inr ⟨hovr, hovf, .inl herr⟩, by rw [htrace], by rw [hops]⟩

theorem setErr_effect (i : Instr) (e : ErrCode) (s : State) : CommandEffect i s (setErr e s) := .of_inner rfl rfl

theorem execOpen_effect {port : Byte} {s t : State} (h : execOpen port s = .next t) :
    CommandEffect (.openPort port) s t := by
  refine accepting_elim h (fun e => setErr_effect _ e s) fun _ => ?_
  dsimp only
  split
  · exact ⟨rfl, .inr (.inl ⟨port, rfl, rfl⟩), .inr ⟨rfl, rfl, .inl rfl⟩, List.prefix_rfl, List.prefix_append ..⟩
  · exact ⟨rfl, .inl rfl, .inr ⟨rfl, rfl, .inl rfl⟩, List.prefix_rfl, List.prefix_append ..⟩

theorem execClose_effect {s t : State} (h : execClose s = .next t) : CommandEffect .close s t := by
  refine accepting_elim h (fun e => setErr_effect _ e s) fun _ => ?_
  unfold closeDevice
  split
  · exact ⟨rfl, .inr (.inr ⟨rfl, rfl⟩), .inr ⟨rfl, rfl, .inl rfl⟩, List.prefix_rfl, List.prefix_append ..⟩
  · exact ⟨rfl, .inr (.inr ⟨rfl, rfl⟩), .inr ⟨rfl, rfl, .inl rfl⟩, List.prefix_rfl, List.prefix_rfl⟩

theorem execCrcTx_effect {s t : State} (h : execCrcTx s = .next t) : CommandEffect .crcTx s t :=
  accepting_elim h (fun e => setErr_effect _ e s) fun _ => .of_inner rfl rfl

theorem execReceive_effect {n : Half} {s t : State} (h : execReceive n s = .next t) : CommandEffect (.receive n) s t :=
  accepting_elim h (fun e => setErr_effect _ e s) fun _ => .of_inner rfl rfl

theorem beginSend_effect (i : Instr) (append transfer : Bool) (n : Half) (s : State) :
    CommandEffect i s (beginSend append transfer n s) := by
  rw [beginSend_eq]
  refine ⟨rfl, .inl rfl, .inr ⟨rfl, rfl, .inl rfl⟩, ?_, List.prefix_append ..⟩
  dsimp only
  split
  · exact List.prefix_append ..
  · exact List.prefix_rfl

theorem execMonStart_effect {f : Byte} {s t : State} (h : execMonStart f s = .next t) :
    CommandEffect (.monStart f) s t :=
  accepting_elim h (fun e => setErr_effect _ e s) fun _ =>
    ⟨rfl, .inl rfl, .inr ⟨rfl, rfl, .inr ⟨f, rfl⟩⟩, List.prefix_rfl, List.prefix_rfl⟩

theorem exec_effect (i : Instr) {s t : State} (h : exec i s = .next t) : CommandEffect i s t := by
  cases i with
  | nop => cases h; exact .of_inner rfl rfl
  | openPort port => exact execOpen_effect h
  | close => exact execClose_effect h
  | clearFlags => cases h; exact ⟨rfl, .inl rfl, .inl rfl, List.prefix_rfl, List.prefix_rfl⟩
  | crcInit | crcByte _ | monStop => cases h; exact .of_inner rfl rfl
  | crcTx => exact execCrcTx_effect h
  | crcCheck =>
    obtain ⟨e, acc, d, rfl⟩ := execCrcCheck_next h
    exact .of_inner rfl rfl
  | send append =>
    exact accepting_elim h (fun e => setErr_effect _ e s) fun _ => beginSend_effect _ append false 0 s
  | receive n => exact execReceive_effect h
  | transfer append n =>
    exact accepting_elim h (fun e => setErr_effect _ e s) fun _ => beginSend_effect _ append true n s
  | monStart f => exact execMonStart_effect h

/-- Settles O25: none of these fields is among those a command may change. -/
theorem commandsLeaveBuffersAlone : Obligations.CommandsLeaveBuffersAlone := by
  intro i s t h
  rw [(exec_effect i h).changes]
  exact ⟨fun _ => rfl, fun _ => rfl, rfl, rfl, rfl, rfl, rfl, rfl, rfl⟩

/-! ### What every other operation carries on -/

/-- The output ports and the two records grow at their end (R43). -/
def PortsGrow (s t : State) : Prop :=
  s.wire <+: t.wire ∧ s.reports <+: t.reports ∧ s.trace <+: t.trace ∧ s.devOps <+: t.devOps ∧ s.bus <+: t.bus

theorem PortsGrow.trans {s t u : State} (h : PortsGrow s t) (h' : PortsGrow t u) : PortsGrow s u := by
  obtain ⟨hw, hr, ht, hd, hb⟩ := h
  obtain ⟨hw', hr', ht', hd', hb'⟩ := h'
  exact ⟨hw.trans hw', hr.trans hr', ht.trans ht', hd.trans hd', hb.trans hb'⟩

/-- A set sticky flag stays set (R35). -/
def FlagsStay (s t : State) : Prop :=
  (s.rxOvr = true → t.rxOvr = true) ∧ (s.monOvf = true → t.monOvf = true) ∧ (s.monErr = true → t.monErr = true)

theorem FlagsStay.trans {s t u : State} (h : FlagsStay s t) (h' : FlagsStay t u) : FlagsStay s u := by
  obtain ⟨ho, hv, he⟩ := h
  obtain ⟨ho', hv', he'⟩ := h'
  exact ⟨ho' ∘ ho, hv' ∘ hv, he' ∘ he⟩

/-- What every operation but a command and Reset does: it keeps the connection and the set flags, and the ports grow. -/
structure Carries (s t : State) : Prop where
  conn  : t.conn = s.conn
  flags : FlagsStay s t
  ports : PortsGrow s t

theorem Carries.trans {s t u : State} (h : Carries s t) (h' : Carries t u) : Carries s u :=
  ⟨h'.conn.trans h.conn, h.flags.trans h'.flags, h.ports.trans h'.ports⟩

/-- Changes elsewhere carry these fields on. -/
theorem Carries.of_same {s t : State}
    (h : (t.conn, t.rxOvr, t.monOvf, t.monErr) = (s.conn, s.rxOvr, s.monOvf, s.monErr)) (hp : PortsGrow s t) :
    Carries s t := by
  simp only [Prod.mk.injEq] at h
  obtain ⟨hconn, hovr, hovf, herr⟩ := h
  exact ⟨hconn, ⟨by rw [hovr]; exact id, by rw [hovf]; exact id, by rw [herr]; exact id⟩, hp⟩

theorem PortsGrow.of_same {s t : State}
    (h : (t.wire, t.reports, t.trace, t.devOps, t.bus) = (s.wire, s.reports, s.trace, s.devOps, s.bus)) :
    PortsGrow s t := by
  simp only [Prod.mk.injEq] at h
  obtain ⟨hw, hr, ht, hd, hb⟩ := h
  exact ⟨by rw [hw], by rw [hr], by rw [ht], by rw [hd], by rw [hb]⟩

theorem Carries.of_inner {s t : State}
    (h : (t.conn, t.rxOvr, t.monOvf, t.monErr) = (s.conn, s.rxOvr, s.monOvf, s.monErr))
    (hp : (t.wire, t.reports, t.trace, t.devOps, t.bus) = (s.wire, s.reports, s.trace, s.devOps, s.bus)) :
    Carries s t :=
  .of_same h (.of_same hp)

theorem answer_carries (agent : Nat) (a : BusAnswer) (s : State) : Carries s (answer agent a s) :=
  .of_same rfl ⟨List.prefix_rfl, List.prefix_rfl, List.prefix_rfl, List.prefix_rfl, List.prefix_append ..⟩

theorem emitWire_carries (bs : List Byte) (s : State) : Carries s (emitWire bs s) :=
  .of_same rfl ⟨List.prefix_append .., List.prefix_rfl, List.prefix_rfl, List.prefix_rfl, List.prefix_rfl⟩

theorem report_carries (e : Report) (s : State) : Carries s (report e s) :=
  .of_same rfl ⟨List.prefix_rfl, List.prefix_append .., List.prefix_rfl, List.prefix_rfl, List.prefix_rfl⟩

theorem finishRx_carries (e : ErrCode) (s : State) : Carries s (finishRx e s) :=
  .of_same (by simp) ⟨by simp, by simp, finishRx_trace_prefix e s, by simp, by simp⟩

theorem quiesce_carries (s : State) : Carries s (quiesce s) :=
  .of_same (by simp) ⟨by simp, by simp, quiesce_trace_prefix s, by simp, by simp⟩

theorem rxByte_carries (b : Byte) (s : State) : Carries s (rxByte b s) := by
  unfold rxByte
  split
  · split
    · exact .of_inner rfl rfl
    · exact ⟨rfl, ⟨fun _ => rfl, id, id⟩, .of_same rfl⟩
  · exact .of_inner rfl rfl

theorem rxErrorTransport_carries (s : State) : Carries s (rxErrorTransport s) := by
  unfold rxErrorTransport
  split
  · exact finishRx_carries _ s
  · exact .of_inner rfl rfl

theorem rxErrorMonitor_carries (s : State) : Carries s (rxErrorMonitor s) := by
  unfold rxErrorMonitor
  split
  · split
    · exact .of_inner rfl rfl
    · have marked : Carries (report .monReadError s) (stopRun { report .monReadError s with monErr := true }) :=
        ⟨rfl, ⟨id, id, fun _ => rfl⟩, .of_same rfl⟩
      exact (report_carries _ s).trans marked
  · exact .of_inner rfl rfl

theorem writeOk_carries (s : State) : Carries s (writeOk s) := (emitWire_carries s.txShadow s).trans (.of_inner rfl rfl)

theorem writeFail_carries (k : Nat) (s : State) : Carries s (writeFail k s) :=
  (emitWire_carries (s.txShadow.take k) s).trans (.of_inner rfl rfl)

theorem drainFree_carries (s : State) : Carries s (drainFree s) :=
  ⟨rfl, ⟨fun h => by simp [h], id, id⟩, .of_same rfl⟩

theorem tickTransport_carries (s : State) : Carries s (tickTransport s) := by
  have ticked : Carries s { s with tmr := s.tmr + 1 } := .of_inner rfl rfl
  unfold tickTransport
  dsimp only
  split
  case h_1 | h_2 => exact .of_inner rfl rfl
  case h_3 =>
    split
    · split
      · exact .of_inner rfl rfl
      · exact .of_inner rfl rfl
    · exact ticked
  case h_4 =>
    split
    · exact ticked.trans (finishRx_carries _ _)
    · exact ticked
  case h_5 =>
    split
    · exact ticked.trans ((drainFree_carries _).trans (finishRx_carries _ _))
    · exact ticked

theorem closeFrame_carries (s : State) : Carries s (closeFrame s) := by
  unfold closeFrame
  split
  · exact .of_inner rfl rfl
  · dsimp only
    split
    · exact ⟨rfl, ⟨id, fun _ => rfl, id⟩, .of_same rfl⟩
    · split
      · exact (report_carries _ s).trans (.of_inner rfl rfl)
      · exact .of_inner rfl rfl

theorem nextAttempt_carries (s : State) : Carries s (nextAttempt s) := .of_inner (by simp) (by simp)

theorem tickMonitor_carries (s : State) : Carries s (tickMonitor s) := by
  have ticked : Carries s { s with mtmr := s.mtmr + 1 } := .of_inner rfl rfl
  unfold tickMonitor
  split
  · dsimp only
    split
    · exact ticked.trans ((closeFrame_carries _).trans (nextAttempt_carries _))
    · exact ticked
  · exact .of_inner rfl rfl

/-! ### What each event can do -/

/-- The command `i` runs between operations that carry the fields on. -/
def RunsCommand (i : Instr) (s t : State) : Prop :=
  ∃ u v, Carries s u ∧ exec i u = .next v ∧ Carries v t

theorem Carries.runsCommand {i : Instr} {s u v t : State} (h : Carries s u) (hi : exec i u = .next v)
    (h' : Carries v t) : RunsCommand i s t := ⟨u, v, h, hi, h'⟩

theorem RunsCommand.trans {i : Instr} {s t u : State} (h : RunsCommand i s t) (h' : Carries t u) : RunsCommand i s u := by
  obtain ⟨v, w, hv, hi, hw⟩ := h
  exact ⟨v, w, hv, hi, hw.trans h'⟩

theorem writeReg_cases {r : Reg} {v : Word} {s t : State} (h : writeReg r v s = .next t) :
    Carries s t ∨ (r = .cmd ∧ ∃ i, (decode v).instr? = some i ∧ exec i s = .next t) := by
  cases r with
  | cmd =>
    obtain ⟨i, hd, hi⟩ | ⟨-, rfl⟩ := issueCommand_cases h
    · exact .inr ⟨rfl, i, hd, hi⟩
    · exact .inl (.of_inner rfl rfl)
  | txLen | txBuf _ | status | crcAcc | rxLen | rxExpect | rxAvail | monFilter | rxBuf _ =>
    cases h; exact .inl (.of_inner rfl rfl)

theorem accessReg_cases {agent : Nat} {r : Reg} {acc : Access} {s t : State} (h : accessReg agent r acc s = .next t) :
    Carries s t ∨
      (∃ width addr v i, acc = .write width addr v ∧ r = .cmd ∧ (decode v).instr? = some i ∧ RunsCommand i s t) := by
  cases acc with
  | read width addr =>
    cases h
    obtain ⟨d, hd⟩ := readReg_draws r s
    have drawn : Carries s (readReg r s).2 := by rw [hd]; exact .of_inner rfl rfl
    exact .inl (drawn.trans (answer_carries ..))
  | write width addr v =>
    obtain ⟨u, hu, rfl⟩ := andThen_next h
    obtain hc | ⟨rfl, i, hd, hi⟩ := writeReg_cases hu
    · exact .inl (hc.trans (answer_carries ..))
    · have start : Carries s s := .of_inner rfl rfl
      exact .inr ⟨width, addr, v, i, rfl, rfl, hd, start.runsCommand hi (answer_carries ..)⟩

theorem accessCommand_cmd {c : Config} {width addr off : Nat} {v : Word} (ho : offsetOf c addr = some off)
    (ht : target off width = some .cmd) : accessCommand c (.write width addr v) = (decode v).instr? := by
  have hc : isCmdWrite c (.write width addr v) = true := by
    simp [isCmdWrite, Access.isWrite, Access.addr, Access.width, ho, ht]
  rw [accessCommand, if_pos hc]

theorem performAccess_effect {agent : Nat} {acc : Access} {s t : State} (h : performAccess agent acc s = .next t) :
    Carries s t ∨ ∃ i, accessCommand s.cfg acc = some i ∧ RunsCommand i s t := by
  unfold performAccess at h
  split at h
  · cases h
  · rename_i off ho
    split at h
    · cases h
      exact .inl ((answer_carries ..).trans (quiesce_carries _))
    · rename_i r hr
      obtain ⟨u, hu, rfl⟩ := andThen_next h
      obtain hc | ⟨width, addr, v, i, rfl, rfl, hd, hrun⟩ := accessReg_cases hu
      · exact .inl (hc.trans (quiesce_carries u))
      · exact .inr ⟨i, (accessCommand_cmd ho hr).trans hd, hrun.trans (quiesce_carries u)⟩

theorem perform_host_effect {e : Event} {s t : State} (h : perform e s = .next t) (he : isHostEvent e = true) :
    Carries s t ∨ ∃ i, commandOf e s = some i ∧ RunsCommand i s t := by
  obtain ⟨l, rfl, -⟩ | ⟨agent, acc, l, o, hp, hacc, -, -⟩ := perform_host_cases h he
  · exact .inl (.of_inner rfl rfl)
  · have taken : Carries s { s with held := l, openAnswer := o } := .of_inner rfl rfl
    obtain hc | ⟨i, hi, u, v, hu, hx, hv⟩ := performAccess_effect hp
    · exact .inl (taken.trans hc)
    · exact .inr ⟨i, by rw [commandOf, hacc]; exact hi, (taken.trans hu).runsCommand hx hv⟩

/-- A device event or a tick. -/
theorem perform_device_carries {e : Event} {s t : State} (h : perform e s = .next t) (he : isHostEvent e = false)
    (hr : isReset e = false) : Carries s t := by
  have dropped : Carries s { s with openAnswer := none } := .of_inner rfl rfl
  cases e with
  | host _ _ | resume _ => cases he
  | reset _ => cases hr
  | openAnswer ok =>
    cases h
    have announced : Carries s { s with openAnswer := some ok } := .of_inner rfl rfl
    exact announced.trans (quiesce_carries _)
  | rxByte b => cases h; exact dropped.trans ((rxByte_carries b _).trans (quiesce_carries _))
  | rxError =>
    cases h
    exact dropped.trans
      ((rxErrorTransport_carries _).trans ((rxErrorMonitor_carries _).trans (quiesce_carries _)))
  | writeOk => cases h; exact dropped.trans ((writeOk_carries _).trans (quiesce_carries _))
  | writeFail k => cases h; exact dropped.trans ((writeFail_carries k _).trans (quiesce_carries _))
  | tick =>
    cases h
    exact dropped.trans ((tickTransport_carries _).trans ((tickMonitor_carries _).trans (quiesce_carries _)))

/-- What a step can do: it runs one command, or is Reset, or carries the connection, the flags and the ports on. -/
theorem step_cases {s t : State} (h : step s = .next t) :
    (isReset (takeEvent s).1 = false ∧ Carries s t) ∨
    (isReset (takeEvent s).1 = false ∧ ∃ i, stepCommand s = some i ∧ RunsCommand i s t) ∨
    (isReset (takeEvent s).1 = true ∧ ∃ k u, Carries s u ∧ t = resetBlock k u) := by
  obtain ⟨-, -, hp, inputs, draws, htake⟩ := step_takeEvent h
  have taken : Carries s (takeEvent s).2 := by rw [htake]; exact .of_inner rfl rfl
  cases hr : isReset (takeEvent s).1 with
  | true =>
    right; right
    cases he : (takeEvent s).1 with
    | reset k => rw [he] at hp; cases hp; exact ⟨rfl, k, _, taken, rfl⟩
    | _ => rw [he] at hr; cases hr
  | false =>
    cases hh : isHostEvent (takeEvent s).1 with
    | false => exact .inl ⟨rfl, taken.trans (perform_device_carries hp hh hr)⟩
    | true =>
      obtain hc | ⟨i, hi, u, v, hu, hx, hv⟩ := perform_host_effect hp hh
      · exact .inl ⟨rfl, taken.trans hc⟩
      · exact .inr (.inl ⟨rfl, i, hi, (taken.trans hu).runsCommand hx hv⟩)

/-! ### The claims about every step -/

theorem RunsCommand.conn {i : Instr} {s t : State} (h : RunsCommand i s t) : ConnAfter i s t := by
  obtain ⟨u, v, hu, hi, hv⟩ := h
  have hc := (exec_effect i hi).conn
  rwa [ConnAfter, ← hv.conn, hu.conn] at hc

theorem ConnAfter.opens {i : Instr} {s t : State} (h : ConnAfter i s t) (hs : s.conn = .closed) (ht : t.conn = .opened) :
    ∃ p, i = .openPort p := by
  obtain hc | ⟨p, hi, -⟩ | ⟨-, hc⟩ := h
  · cases (ht.symm.trans hc).trans hs
  · exact ⟨p, hi⟩
  · cases ht.symm.trans hc

theorem ConnAfter.closes {i : Instr} {s t : State} (h : ConnAfter i s t) (hs : s.conn = .opened) (ht : t.conn = .closed) :
    i = .close := by
  obtain hc | ⟨-, -, hc⟩ | ⟨hi, -⟩ := h
  · cases (ht.symm.trans hc).trans hs
  · cases ht.symm.trans hc
  · exact hi

/-- Settles O27: by the command, or by the cases of a step. -/
theorem onlyOpenOpensTheConnection : Obligations.OnlyOpenOpensTheConnection := by
  refine ⟨fun i s t h => ⟨(exec_effect i h).conn.opens, (exec_effect i h).conn.closes⟩, fun s t h => ?_⟩
  obtain ⟨hr, hc⟩ | ⟨hr, i, hi, hrun⟩ | ⟨hr, k, u, -, rfl⟩ := step_cases h
  · refine ⟨fun hs ht => ?_, fun hs ht => ?_, fun h => ?_⟩
    · cases (ht.symm.trans hc.conn).trans hs
    · cases (ht.symm.trans hc.conn).trans hs
    · rw [hr] at h; cases h
  · refine ⟨fun hs ht => ?_, fun hs ht => ?_, fun h => ?_⟩
    · obtain ⟨p, rfl⟩ := hrun.conn.opens hs ht; exact ⟨p, hi⟩
    · cases hrun.conn.closes hs ht; exact .inl hi
    · rw [hr] at h; cases h
  · exact ⟨fun _ ht => (nomatch ht), fun _ _ => .inr hr, fun _ => rfl⟩

theorem FlagsAfter.stay {i : Instr} {s t : State} (h : FlagsAfter i s t) (hi : i ≠ .clearFlags) :
    (s.rxOvr = true → t.rxOvr = true) ∧ (s.monOvf = true → t.monOvf = true) ∧
      (s.monErr = true → t.monErr = true ∨ ∃ f, i = .monStart f) := by
  obtain hc | ⟨ho, hv, he⟩ := h
  · exact absurd hc hi
  · refine ⟨ho.trans, hv.trans, fun hs => ?_⟩
    obtain he | hf := he
    · exact .inl (he.trans hs)
    · exact .inr hf

/-- Settles O26: by the command, or by the cases of a step. -/
theorem stickyFlagsStay : Obligations.StickyFlagsStay := by
  refine ⟨fun i s t h hi => (exec_effect i h).flags.stay hi, fun s t h hr hne => ?_⟩
  obtain ⟨-, hc⟩ | ⟨-, i, hi, u, v, hu, hx, hv⟩ | ⟨hr', -⟩ := step_cases h
  · obtain ⟨ho, hv, he⟩ := hc.flags
    exact ⟨ho, hv, fun hs => .inl (he hs)⟩
  · have hclear : i ≠ .clearFlags := fun hc => hne (hc ▸ hi)
    obtain ⟨ho, hf, he⟩ := (exec_effect i hx).flags.stay hclear
    obtain ⟨ho₁, hf₁, he₁⟩ := hu.flags
    obtain ⟨ho₂, hf₂, he₂⟩ := hv.flags
    refine ⟨ho₂ ∘ ho ∘ ho₁, hf₂ ∘ hf ∘ hf₁, fun hs => ?_⟩
    obtain hset | ⟨f, rfl⟩ := he (he₁ hs)
    · exact .inl (he₂ hset)
    · exact .inr ⟨f, hi⟩
  · rw [hr] at hr'; cases hr'

theorem exec_ports (i : Instr) {s t : State} (h : exec i s = .next t) : PortsGrow s t := by
  have he := exec_effect i h
  obtain ⟨-, -, -, hwire, hreports, -, hbus, -⟩ := commandsLeaveBuffersAlone i s t h
  exact ⟨by rw [hwire], by rw [hreports], he.trace, he.devOps, by rw [hbus]⟩

/-- Reset puts the bytes it draws on the line and tells an open device to close (R300). -/
theorem resetBlock_ports (k : Nat) (s : State) : PortsGrow s (resetBlock k s) := by
  rw [resetBlock_eq]
  refine ⟨?_, List.prefix_rfl, List.prefix_rfl, ?_, List.prefix_rfl⟩
  · rw [clearBlock_wire]
    dsimp only
    split
    · exact List.prefix_append ..
    · exact List.prefix_rfl
  · rw [clearBlock_devOps]
    dsimp only
    split
    · exact List.prefix_append ..
    · exact List.prefix_rfl

/-- Settles O56: by the cases of a step. -/
theorem portsOnlyGrow : Obligations.PortsOnlyGrow := by
  intro s t h
  obtain ⟨-, hc⟩ | ⟨-, i, -, u, v, hu, hx, hv⟩ | ⟨-, k, u, hu, rfl⟩ := step_cases h
  · exact hc.ports
  · exact hu.ports.trans ((exec_ports i hx).trans hv.ports)
  · exact hu.ports.trans (resetBlock_ports k u)

end Sys2Proof.Laws
end

section
/-! The host's window (20_memory.md R60 to R71): the register at each offset, and what a refused, a waiting and a resumed
access do to the block. -/

namespace Sys2Proof.Laws

open Sys2Proof.Machine

/-! ### The register map -/

theorem target_word {off : Nat} (h : off % 4 = 0) : target off 4 = regAt off := by
  rw [target, if_neg (not_not_intro rfl), if_neg (not_not_intro h)]

theorem target_width {off width : Nat} (h : width ≠ 4) : target off width = none := if_pos h

theorem target_misaligned {off width : Nat} (h : off % 4 ≠ 0) : target off width = none := by
  rw [target, if_pos h, ite_self]

/-- From 0x020 on the map has the two buffers only. -/
theorem regAt_of_ge {off : Nat} (h : 0x020 ≤ off) :
    regAt off =
      if h : 0x400 ≤ off ∧ off < 0x800 then some (.txBuf ⟨(off - 0x400) / 4, by omega⟩)
      else if h : 0x800 ≤ off ∧ off < 0xC00 then some (.rxBuf ⟨(off - 0x800) / 4, by omega⟩)
      else none := by
  unfold regAt
  iterate 8 rw [if_neg (by omega)]

theorem target_txBuf (i : Fin 256) : target (0x400 + 4 * i.val) 4 = some (.txBuf i) := by
  have hi := i.isLt
  rw [target_word (by omega), regAt_of_ge (by omega), dif_pos (by omega)]
  congr
  omega

theorem target_rxBuf (i : Fin 256) : target (0x800 + 4 * i.val) 4 = some (.rxBuf i) := by
  have hi := i.isLt
  rw [target_word (by omega), regAt_of_ge (by omega), dif_neg (by omega), dif_pos (by omega)]
  congr
  omega

/-- No row of the map lies between the registers and the buffers, or above the buffers (R64). -/
theorem target_unmapped {off width : Nat} (h : 0x020 ≤ off ∧ off < 0x400 ∨ 0xC00 ≤ off) : target off width = none := by
  have hr : regAt off = none := by rw [regAt_of_ge (by omega), dif_neg (by omega), dif_neg (by omega)]
  rw [target, hr, ite_self, ite_self]

/-- Settles O30: the registers by evaluation, the buffers and the refusals by the lemmas of the map. -/
theorem registerMapIsTheTable : Obligations.RegisterMapIsTheTable :=
  ⟨rfl, rfl, rfl, rfl, rfl, rfl, rfl, rfl, target_txBuf, target_rxBuf,
    fun _ hlo hhi => target_unmapped (.inl ⟨hlo, Nat.lt_succ_of_le hhi⟩), fun _ hlo _ => target_unmapped (.inr hlo),
    fun _ _ => target_width, fun _ _ => target_misaligned⟩

/-! ### Refused accesses -/

/-- Settles O31: a refused access does not hold, and leaves a quiet state quiet. -/
theorem busErrorChangesNoState : Obligations.BusErrorChangesNoState := by
  intro s agent acc off rest hs hh hi ho ht
  rw [step_host s agent acc rest hs.config hi (by rw [ho]; rfl) hh (not_holds_of_refused ho ht)]
  exact performAccess_busError agent acc { s with inputs := rest } off (quiet_of_inv { hs with }) ho ht

/-! ### CMD writes that perform -/

theorem issueCommand_cmd {w : Word} {i : Instr} (h : decode w = .cmd i) (s : State) : issueCommand w s = exec i s := by
  rw [issueCommand, h]

theorem issueCommand_illegal {w : Word} {op : Byte} (h : decode w = .illegal op) (s : State) :
    issueCommand w s = .next (reject .illegalCommand s) := by
  rw [issueCommand, h]

/-- In a quiet state a CMD write of a reserved opcode only records its error and answers (60_exceptions.md R265, R272). -/
theorem performAccess_illegal (agent : Nat) {w : Word} {op : Byte} (s : State) (hq : Quiet s)
    (h : decode w = .illegal op) :
    performAccess agent (.write 4 s.cfg.base w) s =
      .next { s with openAnswer := none, err := .illegalCommand, bus := s.bus ++ [⟨agent, .done⟩] } := by
  rw [performAccess_cmd, issueCommand_illegal h]
  exact congrArg _ (quiesce_of_quiet (answer agent .done (reject .illegalCommand s)) hq)

/-! ### Resumed accesses -/

theorem fifo_length_lt {s : State} (hs : Inv s) : s.rxFifo.length < 65536 := by
  have hb := hs.fifoBound
  have hd := (config_wf_iff s.cfg).mp hs.config
  omega

section
variable {s : State} {h : HeldAccess} {before after : List HeldAccess} {rest : List Event} (hw : s.cfg.wf = true)
  (hi : s.inputs = .resume h.agent :: rest) (hl : s.held = before ++ h :: after) (hb : ∀ x ∈ before, x.agent ≠ h.agent)
include hw hi hl hb

/-- A resumed access that reaches a register, and is no CMD write, performs in every phase. -/
theorem step_resume_reg {off : Nat} {r : Reg} (ha : h.acc.addr = s.cfg.base + off) (ht : target off h.acc.width = some r)
    (hr : h.acc.isWrite = true → r ≠ .cmd) :
    step s =
      performAccess h.agent h.acc { s with inputs := rest, held := before ++ after, openAnswer := h.openAnswer } := by
  have ho : offsetOf s.cfg h.acc.addr = some off := offsetOf_some.mpr ⟨ha, (target_some ht).2.2.2⟩
  exact step_resume s h before after rest hw hi hl hb (by rw [ho]; rfl) (not_holds_of_not_cmd ho ht hr)

/-- A resumed CMD write performs in the idle block (60_exceptions.md R281). -/
theorem step_resume_cmd {w : Word} (ha : h.acc = .write 4 s.cfg.base w) (hp : s.phase = .idle) :
    step s =
      performAccess h.agent (.write 4 s.cfg.base w)
        { s with inputs := rest, held := before ++ after, openAnswer := h.openAnswer } := by
  have ho : offsetOf s.cfg h.acc.addr = some 0 := by rw [ha]; exact offsetOf_base s.cfg
  rw [step_resume s h before after rest hw hi hl hb (by rw [ho]; rfl) (not_holds_of_idle h.acc s hp), ha]

end

/-- Settles O36: a waiting access joins the end of the list, a resume takes the agent's first, and what it takes performs
in a quiet state. -/
theorem heldAccessesKeepTheirOrder : Obligations.HeldAccessesKeepTheirOrder := by
  refine ⟨fun s agent acc rest hw hh ho hi => step_host_waits s agent acc rest hw hi ho (.inl hh), ?_⟩
  intro s h before after rest hs hi hl hb
  have hw := hs.config
  have hq := quiet_of_inv hs
  have hf := fifo_length_lt hs
  refine ⟨fun w ha => ⟨fun hp => ?_, fun i hp hd => ?_, fun op hp hd => ?_⟩, fun off r ha ht => ?_,
    fun off r v ha ht hr => ?_, fun off ho ht => ?_⟩
  · exact step_resume_holds s h before after rest hw hi hl hb ((holds_eq h.acc s).mpr ⟨hp, w, ha⟩)
  · rw [step_resume_cmd hw hi hl hb ha hp, ← issueCommand_cmd hd]
    exact performAccess_cmd h.agent w _
  · rw [step_resume_cmd hw hi hl hb ha hp]
    exact performAccess_illegal h.agent _ hq hd
  · rw [step_resume_reg hw hi hl hb (by rw [ha]; rfl) (by rw [ha]; exact ht) (by rw [ha]; exact nofun), ha]
    exact performAccess_read h.agent off r
      { s with inputs := rest, held := before ++ after, openAnswer := h.openAnswer } hq hf ht
  · rw [step_resume_reg hw hi hl hb (by rw [ha]; rfl) (by rw [ha]; exact ht) (fun _ => hr), ha]
    exact performAccess_write h.agent off r v
      { s with inputs := rest, held := before ++ after, openAnswer := h.openAnswer } hq ht hr
  · rw [step_resume s h before after rest hw hi hl hb (by rw [ho]; rfl) (not_holds_of_refused ho ht)]
    exact performAccess_busError h.agent h.acc _ off hq ho ht

end Sys2Proof.Laws
end

section
/-! The decoder and the encoder (30_encoding.md R90 to R98): a word decodes to what its `OP` and the fields of the command's
format say (`decode_eq_iff`), and so does the word masked to the bits the format uses (`and_usedBits_iff`). A reserved
opcode's CMD write is rejected (R265). -/

namespace Sys2Proof.Laws

open Sys2Proof.Machine

/-! ### Words by their fields -/

theorem packWord_inj {op op' : Byte} {a a' : Bool} {low low' : Half} :
    packWord op a low = packWord op' a' low' ↔ op = op' ∧ a = a' ∧ low = low' := by
  constructor
  · exact fun h => ⟨by simpa using congrArg opField h, by simpa using congrArg aField h, by simpa using congrArg nField h⟩
  · rintro ⟨rfl, rfl, rfl⟩
    rfl

theorem packWord_b_inj {op op' : Byte} {b b' : Byte} :
    packWord op false (b.zeroExtend 16) = packWord op' false (b'.zeroExtend 16) ↔ op = op' ∧ b = b' := by
  constructor
  · exact fun h => ⟨by simpa using congrArg opField h, by simpa only [bField_packWord] using congrArg bField h⟩
  · rintro ⟨rfl, rfl⟩
    rfl

/-- Masking a word masks its fields; the seven bits outside every field go. -/
theorem and_packWord (w : Word) (op : Byte) (a : Bool) (low : Half) :
    w &&& packWord op a low = packWord (opField w &&& op) (aField w && a) (nField w &&& low) := by
  refine BitVec.eq_of_getLsbD_eq fun i hi => ?_
  simp only [packWord, opField, aField, nField, BitVec.getLsbD_and, BitVec.getLsbD_append]
  interval_cases i <;> simp

/-- `B` is the low byte of `N` (R92). -/
theorem nField_and_low (w : Word) : nField w &&& 0x00FF = (bField w).zeroExtend 16 := by
  ext i hi
  simp only [nField, bField, BitVec.getElem_and]
  interval_cases i <;> simp

/-! ### The used bits of each format (R91) -/

section
variable (w : Word) (op : Byte)

theorem used_none : w &&& 0xFF000000 = packWord op false 0 ↔ opField w = op := by
  rw [show (0xFF000000 : Word) = packWord (.allOnes 8) false 0 from rfl, and_packWord, packWord_inj, BitVec.and_allOnes]
  simp

theorem used_b (b : Byte) : w &&& 0xFF0000FF = packWord op false (b.zeroExtend 16) ↔ opField w = op ∧ bField w = b := by
  rw [show (0xFF0000FF : Word) = packWord (.allOnes 8) false 0x00FF from rfl, and_packWord, nField_and_low,
    Bool.and_false, BitVec.and_allOnes, packWord_b_inj]

theorem used_a (a : Bool) : w &&& 0xFF010000 = packWord op a 0 ↔ opField w = op ∧ aField w = a := by
  rw [show (0xFF010000 : Word) = packWord (.allOnes 8) true 0 from rfl, and_packWord, packWord_inj, BitVec.and_allOnes]
  simp

theorem used_n (n : Half) : w &&& 0xFF00FFFF = packWord op false n ↔ opField w = op ∧ nField w = n := by
  rw [show (0xFF00FFFF : Word) = packWord (.allOnes 8) false (.allOnes 16) from rfl, and_packWord, packWord_inj,
    BitVec.and_allOnes, BitVec.and_allOnes]
  simp

theorem used_an (a : Bool) (n : Half) :
    w &&& 0xFF01FFFF = packWord op a n ↔ opField w = op ∧ aField w = a ∧ nField w = n := by
  rw [show (0xFF01FFFF : Word) = packWord (.allOnes 8) true (.allOnes 16) from rfl, and_packWord, packWord_inj,
    BitVec.and_allOnes, BitVec.and_allOnes]
  simp

end

/-! ### What a word decodes to -/

/-- The operands of a command are the fields of the word its format has (R91, R92). -/
def OperandsIn (w : Word) : Instr → Prop
  | .nop | .close | .clearFlags | .crcInit | .crcTx | .crcCheck | .monStop => True
  | .openPort b | .crcByte b | .monStart b => bField w = b
  | .send a => aField w = a
  | .receive n => nField w = n
  | .transfer a n => aField w = a ∧ nField w = n

/-- The reserved opcodes of R95. -/
def Reserved (op : Byte) : Prop :=
  (0x04 ≤ op.toNat ∧ op.toNat ≤ 0x0F) ∨ (0x14 ≤ op.toNat ∧ op.toNat ≤ 0x1F) ∨
    (0x23 ≤ op.toNat ∧ op.toNat ≤ 0x2F) ∨ 0x32 ≤ op.toNat

/-- What R97 says of a word and its decoding. -/
def Describes (w : Word) : Decoded → Prop
  | .cmd i => opField w = i.opcode ∧ OperandsIn w i
  | .illegal op => opField w = op ∧ Reserved op

theorem not_reserved_opcode (i : Instr) : ¬ Reserved i.opcode := by
  unfold Reserved
  cases i <;> exact of_decide_eq_false rfl

theorem describes_decode (w : Word) : Describes w (decode w) := by
  have hlt := (opField w).isLt
  unfold decode
  split
  -- the last branch: no listed opcode
  case h_14 => exact ⟨rfl, by grind [Reserved]⟩
  all_goals exact ⟨BitVec.eq_of_toNat_eq ‹_›, by simp [OperandsIn]⟩

theorem decode_of_operandsIn {w : Word} {i : Instr} (hop : opField w = i.opcode) (h : OperandsIn w i) :
    decode w = .cmd i := by
  cases i with
  | nop | close | clearFlags | crcInit | crcTx | crcCheck | monStop => rw [decode, hop]; rfl
  | openPort b | crcByte b | monStart b | send a | receive n => rw [decode, hop, ← h]; rfl
  | transfer a n =>
    obtain ⟨rfl, rfl⟩ := h
    rw [decode, hop]; rfl

/-- R97 both ways: a word has one decoding, the one that describes it. -/
theorem decode_eq_iff {w : Word} {d : Decoded} : decode w = d ↔ Describes w d := by
  refine ⟨fun h => h ▸ describes_decode w, fun h => ?_⟩
  cases d with
  | cmd i => exact decode_of_operandsIn h.1 h.2
  | illegal op =>
    obtain ⟨rfl, hr⟩ := h
    have hw := describes_decode w
    cases hd : decode w with
    | cmd i =>
      rw [hd] at hw
      obtain ⟨hop, -⟩ := hw
      exact absurd (hop ▸ hr) (not_reserved_opcode i)
    | illegal op =>
      rw [hd] at hw
      obtain ⟨rfl, -⟩ := hw
      rfl

/-! ### A command's own word -/

/-- The bits a command's format uses hold its opcode and its operands, and nothing else (R91, R93). -/
theorem and_usedBits_iff (w : Word) (i : Instr) :
    w &&& i.usedBits = encode i ↔ opField w = i.opcode ∧ OperandsIn w i := by
  cases i with
  | nop | close | clearFlags | crcInit | crcTx | crcCheck | monStop => exact (used_none w _).trans (and_iff_left trivial).symm
  | openPort b | crcByte b | monStart b => exact used_b w _ b
  | send a => exact used_a w _ a
  | receive n => exact used_n w _ n
  | transfer a n => exact used_an w _ a n

theorem operandsIn_encode (i : Instr) : OperandsIn (encode i) i := by
  cases i with
  | nop | close | clearFlags | crcInit | crcTx | crcCheck | monStop => trivial
  | openPort b | crcByte b | monStart b => exact bField_packWord ..
  | send a => exact aField_packWord ..
  | receive n => exact nField_packWord ..
  | transfer a n => exact ⟨aField_packWord .., nField_packWord ..⟩

theorem opField_encode (i : Instr) : opField (encode i) = i.opcode := by
  cases i <;> exact opField_packWord ..

/-! ### The statements -/

/-- Settles O3: both sides say that `OP` is the command's opcode and that its operands are the word's fields. -/
theorem decodeReadsUsedBitsOnly : Obligations.DecodeReadsUsedBitsOnly :=
  fun w i => decode_eq_iff.trans (and_usedBits_iff w i).symm

/-- Settles O2: the fields of a command's word are its opcode and its operands. -/
theorem decodeOfEncode : Obligations.DecodeOfEncode :=
  fun i => decode_of_operandsIn (opField_encode i) (operandsIn_encode i)

/-- Settles O4: no command's opcode is in the reserved ranges, and every other opcode is. -/
theorem reservedOpcodesAreIllegal : Obligations.ReservedOpcodesAreIllegal := by
  intro w op
  rw [decode_eq_iff]
  exact and_congr_left' eq_comm

/-- Settles O29: in the idle block the write performs, and in a quiet state it only records its error and answers. -/
theorem reservedOpcodeIsRejected : Obligations.ReservedOpcodeIsRejected := by
  intro s agent w op rest hs hp hh hi hd
  have ho : (offsetOf s.cfg s.cfg.base).isSome = true := by rw [offsetOf_base]; rfl
  rw [step_host s agent _ rest hs.config hi ho hh (not_holds_of_idle _ s hp)]
  exact performAccess_illegal agent { s with inputs := rest } (quiet_of_inv { hs with }) hd

/-- Settles O1: by evaluation, word by word. -/
theorem spelledWordsDecode : Obligations.SpelledWordsDecode :=
  ⟨rfl, rfl, rfl, rfl, rfl, rfl, rfl, rfl, rfl, rfl, rfl, rfl, rfl, rfl, rfl, rfl⟩

end Sys2Proof.Laws
end

section
/-! The CRC unit (40_crc.md R130 to R143): the tables are the bytes of their generator, and a table step is the bitwise
step because a shift is linear over exclusive or; then each CRC command as one state update. -/

namespace Sys2Proof.Laws

open Sys2Proof.Machine

/-! ### The shift -/

theorem shiftOnce_xor (r q : Half) : shiftOnce (r ^^^ q) = shiftOnce r ^^^ shiftOnce q := by
  unfold shiftOnce
  rw [BitVec.getLsbD_xor, BitVec.ushiftRight_xor_distrib]
  cases r.getLsbD 0 <;> cases q.getLsbD 0
  · rfl
  · exact BitVec.xor_assoc ..
  · rw [Bool.xor_false, if_pos rfl, if_pos rfl, if_neg Bool.false_ne_true]
    ac_rfl
  · -- the polynomial enters twice and cancels
    rw [Bool.xor_self, if_neg Bool.false_ne_true, if_pos rfl, if_pos rfl, BitVec.xor_comm (q >>> 1), BitVec.xor_assoc,
      ← BitVec.xor_assoc 0xA001, BitVec.xor_self, BitVec.zero_xor]

/-- The shift is linear over exclusive or: why a step depends on the byte by one table entry (R134). -/
theorem shiftTimes_xor (k : Nat) : ∀ r q : Half, shiftTimes k (r ^^^ q) = shiftTimes k r ^^^ shiftTimes k q := by
  induction k with
  | zero => intros; rfl
  | succ k ih => intro r q; simp only [shiftTimes, shiftOnce_xor, ih]

/-- While the bits shifted out are 0 the polynomial does not enter. -/
theorem shiftTimes_of_low_zero (k : Nat) : ∀ r : Half, (∀ i, i < k → r.getLsbD i = false) →
    shiftTimes k r = r >>> k := by
  induction k with
  | zero => intro r _; exact (BitVec.ushiftRight_zero r).symm
  | succ k ih =>
    intro r h
    have hstep : shiftOnce r = r >>> 1 := if_neg (by rw [h 0 (Nat.succ_pos k)]; exact Bool.false_ne_true)
    rw [shiftTimes, hstep, ih, ← BitVec.shiftRight_add, Nat.add_comm]
    intro i hi
    rw [BitVec.getLsbD_ushiftRight]
    exact h _ (by omega)

/-! ### The bitwise step -/

theorem zeroExtend_eq_append (b : Byte) : b.zeroExtend 16 = 0#8 ++ b := BitVec.setWidth_eq_append (by decide)

/-- Eight shifts of `acc_lo << 8` only move the byte down. -/
theorem shiftTimes_high_byte (lo : Byte) : shiftTimes 8 (lo ++ 0#8) = 0#8 ++ lo := by
  rw [shiftTimes_of_low_zero 8 _ fun i hi => by rw [BitVec.getLsbD_append, if_pos hi, BitVec.getLsbD_zero],
    ← zeroExtend_eq_append]
  ext i hi
  rw [BitVec.getElem_ushiftRight, BitVec.getLsbD_append, if_neg (by omega), Nat.add_sub_cancel_left,
    BitVec.getElem_setWidth]

/-- The bitwise step of R134: `acc_hi` and the byte are shifted through together, and `acc_lo` moves down over the
result. -/
theorem shiftTimes_accumulator (acc : Byte × Byte) (b : Byte) :
    shiftTimes 8 ((acc.2 ++ acc.1) ^^^ b.zeroExtend 16) = (0#8 ++ acc.2) ^^^ t16 (acc.1 ^^^ b) := by
  have hsplit : (acc.2 ++ acc.1) ^^^ (0#8 ++ b) = (acc.2 ++ 0#8) ^^^ (0#8 ++ (acc.1 ^^^ b)) := by
    rw [BitVec.xor_append, BitVec.xor_append, BitVec.zero_xor]
  rw [t16, zeroExtend_eq_append, zeroExtend_eq_append, ← shiftTimes_high_byte acc.2, ← shiftTimes_xor]
  exact congrArg (shiftTimes 8) hsplit

/-! ### The table step -/

/-- The 256 entries of both tables, each pair read as one word, are the values of the generator (R133). -/
theorem tables_eq_t16 : ∀ i : Byte, tableLow i ++ tableHi i = t16 i := by decide

theorem tableHi_eq (i : Byte) : tableHi i = (t16 i).extractLsb' 0 8 := by
  rw [← tables_eq_t16, BitVec.extractLsb'_append_eq_right]

theorem tableLow_eq (i : Byte) : tableLow i = (t16 i).extractLsb' 8 8 := by
  rw [← tables_eq_t16, BitVec.extractLsb'_append_eq_left]

theorem crcStep_eq_bitwise (acc : Byte × Byte) (b : Byte) : crcStep acc b = crcStepBitwise acc b := by
  have hword : shiftTimes 8 ((acc.2 ++ acc.1) ^^^ b.zeroExtend 16) =
      tableLow (acc.1 ^^^ b) ++ (acc.2 ^^^ tableHi (acc.1 ^^^ b)) := by
    rw [shiftTimes_accumulator, ← tables_eq_t16]
    exact BitVec.xor_append.trans (by rw [BitVec.zero_xor])
  rw [crcStepBitwise, hword, BitVec.extractLsb'_append_eq_left, BitVec.extractLsb'_append_eq_right, crcStep]

/-- Settles O9: the tables entry by entry against their generator, and the step by the linearity of the shift. -/
theorem tableStepIsBitwiseStep : Obligations.TableStepIsBitwiseStep :=
  ⟨fun i => ⟨tableHi_eq i, tableLow_eq i⟩, crcStep_eq_bitwise⟩

/-! ### Using the first entries of a buffer -/

/-- A use of the first `k` entries, whatever draws were made before (R26, R28). -/
theorem useOf_useEntries (m : Memory) (k n : Nat) : UseOf m k (useEntries m 0 k n).1 :=
  ⟨useEntries_length m k 0 n, fun i b hi hb => useEntries_get m k 0 n i b hi (by rwa [Nat.zero_add])⟩

/-! ### The commands as state updates -/

/-- CRC_BYTE for each byte of a sequence advances the accumulator along it (R130, R141). No fault or refusal arises, so what
`f` makes of one does not matter. -/
theorem foldl_exec_crcByte {f : Outcome → Byte → Outcome} (hf : ∀ t b, f (.next t) b = exec (.crcByte b) t)
    (s : State) (bs : List Byte) : ∀ acc, bs.foldl f (.next (setErr .none (setAcc acc s))) =
      .next (setErr .none (setAcc (bs.foldl crcStep acc) s)) := by
  induction bs with
  | nil => intro acc; rfl
  | cons b bs ih =>
    intro acc
    rw [List.foldl_cons, hf]
    exact ih (crcStep acc b)

theorem execCrcTx_tooLong {s : State} (h : 256 < s.txLen.toNat) : execCrcTx s = .next (setErr .invalidArgument s) :=
  accepting_fail _ s (if_pos (decide_eq_true h))

theorem execCrcTx_accepted {s : State} (h : s.txLen.toNat ≤ 256) :
    execCrcTx s = .next (setErr .none (setAcc (crc (txFrame s).1) { s with draws := (txFrame s).2 })) :=
  accepting_pass _ s (if_neg (Bool.eq_false_iff.mp ((txLenTooLong_check s).mpr h)))

theorem execCrcCheck_short {s : State} (h : s.rxLen.toNat < 2) :
    execCrcCheck s = .next (setErr .crcMismatch (setAcc crcSeed s)) := if_pos h

/-- The bytes CRC_CHECK takes the CRC of (R143), and the draws made after using them. -/
def checkBody (s : State) : List Byte × Nat := useEntries s.rxbuf 0 (s.rxLen.toNat - 2) s.draws

/-- The bytes CRC_CHECK compares with that CRC (R143), and the draws made after using them. -/
def checkTail (s : State) : List Byte × Nat := useEntries s.rxbuf (s.rxLen.toNat - 2) 2 (checkBody s).2

theorem checkTail_eq_pair (s : State) : ∃ x y, (checkTail s).1 = [x, y] :=
  List.length_eq_two.mp (useEntries_length ..)

theorem execCrcCheck_compares {s : State} {x y : Byte} (h : 2 ≤ s.rxLen.toNat) (hxy : (checkTail s).1 = [x, y]) :
    execCrcCheck s = .next (setErr (if crc (checkBody s).1 = (x, y) then .none else .crcMismatch)
      (setAcc (crc (checkBody s).1) { s with draws := (checkTail s).2 })) := by
  have hexec : execCrcCheck s = .next (setErr
      (if (checkTail s).1 = [(crc (checkBody s).1).1, (crc (checkBody s).1).2] then .none else .crcMismatch)
      (setAcc (crc (checkBody s).1) { s with draws := (checkTail s).2 })) := if_neg (Nat.not_lt.mpr h)
  rw [hexec, hxy]
  simp only [List.cons.injEq, and_true, Prod.ext_iff, eq_comm]

theorem rxFrame_eq_body_tail {s : State} (h : 2 ≤ s.rxLen.toNat) :
    rxFrame s = ((checkBody s).1 ++ (checkTail s).1, (checkTail s).2) := by
  have happend := useEntries_append s.rxbuf (s.rxLen.toNat - 2) 2 0 s.draws
  rwa [Nat.sub_add_cancel h, Nat.zero_add] at happend

/-! ### The statements -/

/-- Settles O11: CRC_INIT begins where the sequence of `foldl_exec_crcByte` begins, at the seed. -/
theorem crcBytesAccumulate : Obligations.CrcBytesAccumulate :=
  fun bs s => foldl_exec_crcByte (fun _ _ => rfl) s bs crcSeed

/-- Settles O14: the transmit frame is a use of `txbuf`. -/
theorem crcTxComputes : Obligations.CrcTxComputes :=
  ⟨fun _ h => decode_of_operandsIn h trivial, fun s =>
    ⟨execCrcTx_tooLong, fun h => ⟨_, _, useOf_useEntries s.txbuf s.txLen.toNat s.draws, execCrcTx_accepted h⟩⟩⟩

/-- Settles O15: the receive frame is a use of `rxbuf`, and its last two bytes are those compared. -/
theorem crcCheckCompares : Obligations.CrcCheckCompares := by
  refine ⟨fun _ h => decode_of_operandsIn h trivial, fun s => ⟨execCrcCheck_short, fun h => ?_⟩⟩
  obtain ⟨x, y, hxy⟩ := checkTail_eq_pair s
  have hframe : (rxFrame s).1 = (checkBody s).1 ++ [x, y] := by rw [rxFrame_eq_body_tail h, hxy]
  have huse : UseOf s.rxbuf s.rxLen.toNat ((checkBody s).1 ++ [x, y]) := hframe ▸ useOf_useEntries ..
  exact ⟨(checkBody s).1, x, y, _, huse, execCrcCheck_compares h hxy⟩

/-- Settles O8: by evaluation, value by value. -/
theorem crcOfSourceExamples : Obligations.CrcOfSourceExamples :=
  ⟨rfl, rfl, rfl, rfl, rfl⟩

/-- Settles O12: `OP` 0x10 is CRC_INIT's, which has no operand. -/
theorem crcInitSeeds : Obligations.CrcInitSeeds :=
  ⟨fun _ h => decode_of_operandsIn h trivial, fun _ => rfl⟩

/-- Settles O13: `OP` 0x11 is CRC_BYTE's, whose operand is the low byte. -/
theorem crcByteAdvances : Obligations.CrcByteAdvances :=
  ⟨fun _ h => decode_of_operandsIn h rfl, fun _ _ => rfl⟩

end Sys2Proof.Laws
end

section
/-! A transaction in progress (41_transport.md R166, R180 to R202): what its ticks do, that no host access disturbs it, and
that it ends. -/

namespace Sys2Proof.Laws

open Sys2Proof.Machine

/-! ### Steps with no monitor running -/

theorem monitor_not_running {s : State} (hs : Inv s) (hp : s.phase ≠ .idle) : s.monState ≠ .running :=
  fun h => hp (hs.monitorExclusive h).1

theorem tickMonitor_of_ne {s : State} (h : s.monState ≠ .running) : tickMonitor s = s := by
  rw [tickMonitor, if_neg (by simpa using h)]

theorem rxErrorMonitor_of_ne {s : State} (h : s.monState ≠ .running) : rxErrorMonitor s = s := by
  rw [rxErrorMonitor, if_neg (by simpa using h)]

/-- A step that goes on performs the listed event, which is enabled. -/
theorem step_listed_next {s t : State} {e : Event} {rest : List Event} (hi : s.inputs = e :: rest)
    (h : step s = .next t) :
    enabled e { s with inputs := rest } = true ∧ perform e { s with inputs := rest } = .next t := by
  obtain ⟨-, e', inputs, draws, he, hp, hl⟩ := step_next h
  obtain ⟨rfl, rfl, rfl⟩ := hl e rest hi
  exact ⟨he, hp⟩

section
variable {s : State} {rest : List Event}

theorem step_tick (hw : s.cfg.wf = true) (hm : s.monState ≠ .running) (hi : s.inputs = .tick :: rest) :
    step s = .next (quiesce (tickTransport { s with inputs := rest, openAnswer := none })) := by
  rw [step_enabled s _ rest hw hi rfl]
  have ht := tickMonitor_of_ne (s := tickTransport { s with inputs := rest, openAnswer := none })
    (by rw [tickTransport_monState]; exact hm)
  exact congrArg (fun t => Host.Outcome.next (quiesce t)) ht

theorem step_rxByte {b : Byte} (hw : s.cfg.wf = true) (hi : s.inputs = .rxByte b :: rest) :
    step s = .next (quiesce (rxByte b { s with inputs := rest, openAnswer := none })) :=
  step_enabled s _ rest hw hi rfl

/-- The device reports the write complete (R180). -/
theorem step_writeOk (hs : Inv s) (hp : s.phase = .sWrite) (hi : s.inputs = .writeOk :: rest) :
    step s = .next
      { s with inputs := rest, openAnswer := none, wire := s.wire ++ s.txShadow, phase := .sIfd, tmr := 0 } := by
  have hm := monitor_not_running hs (by rw [hp]; decide)
  rw [step_enabled s _ rest hs.config hi (decide_eq_true hp)]
  exact congrArg _ (quiesce_of_no_read (writeOk { s with inputs := rest, openAnswer := none }) nofun hm)

end

/-! ### The timer -/

/-- The tick that ends a phase (R182, R192, R194); IDLE and S_WRITE count none (R166). -/
def timerLimit (s : State) : Nat :=
  match s.phase with
  | .idle | .sWrite => 0
  | .sIfd => s.cfg.tIfd
  | .rFixed => s.cfg.tRx
  | .rSettle => s.cfg.tSettle

theorem timerLimit_sIfd {s : State} (hp : s.phase = .sIfd) : timerLimit s = s.cfg.tIfd := by rw [timerLimit, hp]

theorem timerLimit_rFixed {s : State} (hp : s.phase = .rFixed) : timerLimit s = s.cfg.tRx := by rw [timerLimit, hp]

theorem timerLimit_rSettle {s : State} (hp : s.phase = .rSettle) : timerLimit s = s.cfg.tSettle := by
  rw [timerLimit, hp]

theorem tmr_lt_timerLimit {s : State} (hs : Inv s) (hp : s.phase ≠ .idle) (hw : s.phase ≠ .sWrite) :
    s.tmr < timerLimit s := by
  unfold timerLimit
  split
  case h_1 hp' => exact absurd hp' hp
  case h_2 hp' => exact absurd hp' hw
  case h_3 hp' => exact hs.ifdTimer hp'
  case h_4 hp' => exact hs.fixedTimer hp'
  case h_5 hp' => exact hs.settleTimer hp'

/-- A tick before the limit only counts. -/
theorem tickTransport_counts {s : State} (h : s.tmr + 1 < timerLimit s) :
    tickTransport s = { s with tmr := s.tmr + 1 } := by
  unfold tickTransport
  cases hp : s.phase with
  | idle | sWrite => simp [timerLimit, hp] at h
  | sIfd => exact if_neg (timerLimit_sIfd hp ▸ h).ne
  | rFixed => exact if_neg (timerLimit_rFixed hp ▸ h).ne
  | rSettle => exact if_neg (timerLimit_rSettle hp ▸ h).ne

/-- The last tick of the inter-frame delay (R182). -/
theorem tickTransport_ifd_last {s : State} (hp : s.phase = .sIfd) (h : s.tmr + 1 = s.cfg.tIfd) :
    tickTransport s = if s.curTransfer then startReceive s.curExpected s else complete .none s := by
  simp only [tickTransport, hp]
  exact if_pos h

/-- The last tick of the receive window (R192). -/
theorem tickTransport_fixed_last {s : State} (hp : s.phase = .rFixed) (h : s.tmr + 1 = s.cfg.tRx) :
    tickTransport s =
      finishRx (if s.rxLen = 0 then .receiveTimeout else .lengthMismatch) { s with tmr := s.tmr + 1 } := by
  simp only [tickTransport, hp]
  exact if_pos h

/-- The last tick of the settle delay (R194). -/
theorem tickTransport_settle_last {s : State} (hp : s.phase = .rSettle) (h : s.tmr + 1 = s.cfg.tSettle) :
    tickTransport s =
      finishRx (if s.rxFifo.isEmpty then .receiveTimeout else .none) (drainFree { s with tmr := s.tmr + 1 }) := by
  simp only [tickTransport, hp]
  exact if_pos h

/-- A step of a tick before the limit only counts. -/
theorem step_tick_counts {s : State} {rest : List Event} (hs : Inv s) (hi : s.inputs = .tick :: rest)
    (h : s.tmr + 1 < timerLimit s) :
    step s = .next { s with inputs := rest, openAnswer := none, tmr := s.tmr + 1 } := by
  have hp : s.phase ≠ .idle := fun hp => by simp [timerLimit, hp] at h
  rw [step_tick hs.config (monitor_not_running hs hp) hi, tickTransport_counts (by exact h)]
  exact congrArg _ (quiesce_of_same hs rfl rfl rfl rfl rfl)

/-! ### Host accesses to a busy block (R200, R281) -/

/-- What a host access may change while a transaction goes on: the transmit buffer, and the model's own records. -/
abbrev HostChanges (s t : State) : Prop :=
  t = { s with
    txbuf := t.txbuf, txLen := t.txLen, bus := t.bus, held := t.held, openAnswer := t.openAnswer, draws := t.draws }

/-- After such a change nothing is left to take. -/
theorem quiesce_hostChanges {s t : State} (hs : Inv s) (h : HostChanges s t) : HostChanges s (quiesce t) := by
  have hq : quiesce t = t := by
    rw [h]
    exact quiesce_of_same hs rfl rfl rfl rfl rfl
  rw [hq]
  exact h

theorem perform_host_busy {s t : State} {e : Event} (h : perform e s = .next t) (he : isHostEvent e = true) (hs : Inv s)
    (hp : s.phase ≠ .idle) : HostChanges s t := by
  obtain ⟨l, rfl, -⟩ | ⟨agent, acc, l, o, ha, -, hn, -⟩ := perform_host_cases h he
  · rfl
  · obtain ⟨m, len, b, d, rfl⟩ | ⟨_, _, _, _, -, hc, -⟩ := performAccess_cases ha
    · exact quiesce_hostChanges hs rfl
    · -- a CMD write holds while the block is busy
      rw [holds, (busy_eq s).mpr hp] at hn
      cases hc.symm.trans hn

/-- Settles O45: none of these fields is among those a host access may change. -/
theorem hostCannotDisturbATransaction : Obligations.HostCannotDisturbATransaction := by
  intro s t e rest hs hp he hi h
  obtain ⟨-, hperf⟩ := step_listed_next hi h
  have ht : HostChanges { s with inputs := rest } t := perform_host_busy hperf he { hs with } hp
  rw [ht]
  exact ⟨rfl, rfl, rfl, rfl, rfl, rfl, rfl, rfl, rfl, rfl, rfl, rfl, rfl, rfl, fun _ => rfl⟩

/-! ### Every transport command ends (R202) -/

/-- The ticks left are those of the phase, and in S_IFD of a TRANSFER those of its receive. -/
theorem ticksLeft_eq (s : State) :
    ticksLeft s = timerLimit s - s.tmr +
      if s.phase = .sIfd ∧ s.curTransfer = true then receiveLimit s.cfg s.curExpected else 0 := by
  unfold ticksLeft timerLimit
  cases s.phase <;> simp

theorem ticksLeft_of_idle {s : State} (h : s.phase = .idle) : ticksLeft s = 0 := by rw [ticksLeft, h]

theorem receiveLimit_le (c : Config) (n : Half) : receiveLimit c n ≤ max c.tRx c.tSettle := by
  unfold receiveLimit
  split
  · exact Nat.le_max_right ..
  · exact Nat.le_max_left ..

theorem ticksLeft_le (s : State) : ticksLeft s ≤ s.cfg.tIfd + max s.cfg.tRx s.cfg.tSettle := by
  have hl := receiveLimit_le s.cfg s.curExpected
  unfold ticksLeft
  cases s.phase <;> dsimp only
  case sIfd => split <;> omega
  all_goals omega

theorem ticksLeft_pos {s : State} (hs : Inv s) (hp : s.phase ≠ .idle) (hw : s.phase ≠ .sWrite) : 0 < ticksLeft s := by
  have := tmr_lt_timerLimit hs hp hw
  rw [ticksLeft_eq]
  omega

theorem startReceive_not_sWrite (n : Half) (s : State) : (startReceive n s).phase ≠ .sWrite := by
  rw [startReceive_phase]
  split <;> decide

theorem ticksLeft_startReceive (n : Half) (s : State) : ticksLeft (startReceive n s) = receiveLimit s.cfg n := by
  unfold ticksLeft
  rw [startReceive_phase]
  by_cases h : n = 0
  · rw [if_pos h]; exact (if_pos h).symm
  · rw [if_neg h]; exact (if_neg h).symm

/-- A tick lowers the ticks left, and starts no write. -/
theorem tickTransport_lowers {s : State} (hs : Inv s) (hp : s.phase ≠ .idle) (hw : s.phase ≠ .sWrite) :
    (tickTransport s).phase ≠ .sWrite ∧ ticksLeft (tickTransport s) < ticksLeft s := by
  have htmr := tmr_lt_timerLimit hs hp hw
  have hpos := ticksLeft_pos hs hp hw
  have ended : ∀ {t : State}, t.phase = .idle → t.phase ≠ .sWrite ∧ ticksLeft t < ticksLeft s := fun ht =>
    ⟨by rw [ht]; decide, by rw [ticksLeft_of_idle ht]; exact hpos⟩
  by_cases hlast : s.tmr + 1 < timerLimit s
  · rw [tickTransport_counts hlast]
    refine ⟨hw, ?_⟩
    rw [ticksLeft_eq, ticksLeft_eq s]
    show timerLimit s - (s.tmr + 1) + _ < timerLimit s - s.tmr + _
    exact Nat.add_lt_add_right (by omega) _
  · have hlim : s.tmr + 1 = timerLimit s := by omega
    cases hph : s.phase with
    | idle => exact absurd hph hp
    | sWrite => exact absurd hph hw
    | sIfd =>
      rw [timerLimit_sIfd hph] at hlim
      rw [tickTransport_ifd_last hph hlim]
      cases ht : s.curTransfer with
      | false => exact ended rfl
      | true =>
        refine ⟨startReceive_not_sWrite _ _, ?_⟩
        rw [if_pos rfl, ticksLeft_startReceive, ticksLeft_eq, if_pos ⟨hph, ht⟩]
        exact Nat.lt_add_of_pos_left (by omega)
    | rFixed =>
      rw [timerLimit_rFixed hph] at hlim
      rw [tickTransport_fixed_last hph hlim]
      exact ended (finishRx_phase ..)
    | rSettle =>
      rw [timerLimit_rSettle hph] at hlim
      rw [tickTransport_settle_last hph hlim]
      exact ended (finishRx_phase ..)

/-- A transaction ends, or its phase, its timer and its context, which the ticks left depend on, stay. -/
def EndsOrStays (s t : State) : Prop :=
  t.phase = .idle ∨
    (t.phase, t.tmr, t.curTransfer, t.curExpected, t.cfg) = (s.phase, s.tmr, s.curTransfer, s.curExpected, s.cfg)

theorem EndsOrStays.trans {s t u : State} (h : EndsOrStays s t) (h' : EndsOrStays t u) : EndsOrStays s u := by
  obtain hu | hu := h'
  · exact .inl hu
  · obtain ht | ht := h
    · exact .inl ((congrArg Prod.fst hu).trans ht)
    · exact .inr (hu.trans ht)

theorem EndsOrStays.bounds {s t : State} (h : EndsOrStays s t) (hw : s.phase ≠ .sWrite) :
    t.phase ≠ .sWrite ∧ ticksLeft t ≤ ticksLeft s := by
  obtain ht | ht := h
  · exact ⟨by rw [ht]; decide, by rw [ticksLeft_of_idle ht]; exact Nat.zero_le _⟩
  · simp only [Prod.mk.injEq] at ht
    obtain ⟨hp, htmr, htr, hexp, hcfg⟩ := ht
    exact ⟨hp ▸ hw, by rw [ticksLeft, ticksLeft, hp, htmr, htr, hexp, hcfg]⟩

theorem quiesce_endsOrStays (s : State) : EndsOrStays s (quiesce s) := by
  have transport : EndsOrStays s (quiesceTransport s) := by
    unfold quiesceTransport
    split
    · rw [takeFixed_eq]
      dsimp only
      split
      · exact .inl (finishRx_phase ..)
      · exact .inr rfl
    · exact .inr rfl
  have monitor : EndsOrStays (quiesceTransport s) (quiesceMonitor (quiesceTransport s)) := by
    rw [quiesceMonitor_changes (quiesceTransport s)]
    exact .inr rfl
  exact transport.trans monitor

theorem EndsOrStays.quiesce {s t : State} (h : EndsOrStays s t) : EndsOrStays s (quiesce t) :=
  h.trans (quiesce_endsOrStays t)

theorem rxErrorTransport_endsOrStays (s : State) : EndsOrStays s (rxErrorTransport s) := by
  unfold rxErrorTransport
  split
  · exact .inl (finishRx_phase ..)
  · exact .inr rfl

/-- Past the write result, every event but a tick ends the transaction or leaves its ticks. -/
theorem perform_endsOrStays {e : Event} {s t : State} (h : perform e s = .next t) (he : enabled e s = true) (hs : Inv s)
    (hp : s.phase ≠ .idle) (hw : s.phase ≠ .sWrite) (ht : e ≠ .tick) : EndsOrStays s t := by
  cases e with
  | host _ _ | resume _ => rw [perform_host_busy h rfl hs hp]; exact .inr rfl
  | openAnswer ok => cases h; exact EndsOrStays.quiesce (.inr rfl)
  | rxByte b => cases h; exact EndsOrStays.quiesce (.inr (by simp))
  | rxError =>
    cases h
    have transport := rxErrorTransport_endsOrStays { s with openAnswer := none }
    exact (transport.trans (.inr (by simp))).quiesce
  | writeOk => exact absurd (of_decide_eq_true he) hw
  | writeFail k => simp [enabled, hw] at he
  | tick => exact absurd rfl ht
  | reset k => cases h; exact .inl rfl

/-- Settles O46: a tick lowers the measure, and any other event past the write result ends the command or keeps it. -/
theorem transportCommandsTerminate : Obligations.TransportCommandsTerminate := by
  refine ⟨fun s _ => ticksLeft_le s, fun s hs hw => ⟨fun h0 => ?_, ticksLeft_of_idle⟩, fun s t rest hs hp hi h => ?_,
    fun s t e rest hs hp hw hi h => ?_⟩
  · by_contra hp
    exact absurd h0 (Nat.pos_iff_ne_zero.mp (ticksLeft_pos hs hp hw))
  · rw [step_writeOk hs hp hi] at h
    cases h
    rfl
  · obtain ⟨he, hperf⟩ := step_listed_next hi h
    by_cases ht : e = .tick
    · subst ht
      have hm := monitor_not_running hs hp
      rw [step_tick hs.config hm hi] at h
      cases h
      obtain ⟨hne, hlt⟩ := tickTransport_lowers (s := { s with inputs := rest, openAnswer := none }) { hs with } hp hw
      obtain ⟨hne', hle⟩ := (quiesce_endsOrStays _).bounds hne
      have hlt' := Nat.lt_of_le_of_lt hle hlt
      exact ⟨hne', hlt'.le, fun _ => hlt'⟩
    · obtain ⟨hne, hle⟩ := (perform_endsOrStays hperf he { hs with } hp hw ht).bounds hw
      exact ⟨hne, hle, fun h => absurd h ht⟩

end Sys2Proof.Laws
end

section
/-! The commands OPEN, CLOSE, SEND and TRANSFER (41_transport.md R170 to R178), and the device's answer announced for an OPEN
(30_encoding.md R99). -/

namespace Sys2Proof.Laws

open Sys2Proof.Machine

/-! ### The connection -/

theorem execOpen_opened {port : Byte} {s : State} (hc : s.conn = .opened) :
    execOpen port s = .next (setErr .badState s) :=
  accepting_fail _ s (if_pos ((isOpen_eq s).mpr hc))

/-- On a closed connection OPEN does what the drawn open result says (R170). -/
theorem execOpen_closed {port : Byte} {s : State} (hc : s.conn = .closed) :
    execOpen port s = .next
      { s with
        conn := if (drawOpenOk s).1 then .opened else .closed,
        rxFifo := if (drawOpenOk s).1 then [] else s.rxFifo,
        err := if (drawOpenOk s).1 then .none else .connectionError,
        devOps := s.devOps ++ [.openPort port s.cfg.baud], openAnswer := none, draws := (drawOpenOk s).2.2 } := by
  have hclosed : ¬ isOpen s = true := by simp [hc]
  have hnone : (drawOpenOk s).2.1 = none := by unfold drawOpenOk; split <;> rfl
  refine Eq.trans (accepting_pass _ s (if_neg hclosed)) (congrArg _ ?_)
  dsimp only
  rw [hnone]
  split <;> simp [setErr, drive, hc]

/-- The drawn open result is the announced one, and then no draw is made (R165, R99). -/
theorem drawOpenOk_announced {s : State} {ok : Bool} (h : s.openAnswer = some ok) :
    (drawOpenOk s).1 = ok ∧ (drawOpenOk s).2.2 = s.draws := by
  rw [drawOpenOk, h]
  exact ⟨rfl, rfl⟩

theorem performAccess_openAnswer {agent : Nat} {acc : Access} {s t : State} (h : performAccess agent acc s = .next t) :
    t.openAnswer = none := by
  obtain ⟨_, _, _, _, rfl⟩ | ⟨_, _, _, _, -, -, -, rfl⟩ := performAccess_cases h <;> rw [quiesce_openAnswer]
  rfl

/-- Every event but an announcement leaves none. -/
theorem perform_openAnswer {e : Event} {s t : State} (h : perform e s = .next t) :
    t.openAnswer = none ∨ ∃ ok, e = .openAnswer ok ∧ t.openAnswer = some ok := by
  cases e with
  | host _ _ | resume _ =>
    obtain ⟨l, rfl, -⟩ | ⟨_, _, _, _, ha, -⟩ := perform_host_cases h rfl
    · exact .inl rfl
    · exact .inl (performAccess_openAnswer ha)
  | openAnswer ok => cases h; exact .inr ⟨ok, rfl, quiesce_openAnswer _⟩
  | rxByte _ | rxError | writeOk | writeFail _ | tick => cases h; exact .inl (by simp)
  | reset k => cases h; exact .inl rfl

/-- Settles O17: the open result is the one OPEN draws, and no event but an announcement leaves an answer announced. -/
theorem openFollowsTheDevice : Obligations.OpenFollowsTheDevice := by
  refine ⟨fun p s => ⟨execOpen_opened, fun hc => ⟨_, _, fun a ha => drawOpenOk_announced ha, execOpen_closed hc⟩⟩,
    fun s t h => ?_⟩
  obtain ⟨-, -, hp, -⟩ := step_takeEvent h
  exact perform_openAnswer hp

theorem execClose_running {s : State} (h : s.monState = .running) : execClose s = .next (setErr .modeConflict s) :=
  accepting_fail _ s (if_pos ((monRunning_eq s).mpr h))

theorem execClose_accepted {s : State} (h : s.monState ≠ .running) :
    execClose s = .next (setErr .none { closeDevice s with conn := .closed, rxFifo := [] }) :=
  accepting_pass _ s (if_neg (by simpa using h))

theorem closeDevice_eq (s : State) :
    closeDevice s = { s with devOps := if s.conn = .opened then s.devOps ++ [.close] else s.devOps } := by
  by_cases hc : s.conn = .opened <;> simp [closeDevice, isOpen, drive, hc]

/-- Settles O18: the device is told to close only if the connection is open. -/
theorem closeCloses : Obligations.CloseCloses := by
  refine fun s => ⟨execClose_running, fun h => ?_⟩
  refine (execClose_accepted h).trans ?_
  rw [closeDevice_eq]
  rfl

/-! ### SEND and TRANSFER -/

section
variable {s : State} (hc : s.conn = .opened) (hm : s.monState ≠ .running)
include hc hm

theorem execSend_accepted (a : Bool) (hl : s.txLen.toNat ≤ 256) : execSend a s = .next (beginSend a false 0 s) := by
  refine accepting_pass _ s ?_
  rw [(isOpen_check s).mpr hc, (monRunning_check s).mpr hm, (txLenTooLong_check s).mpr hl]
  rfl

theorem execTransfer_accepted (a : Bool) {n : Half} (hl : s.txLen.toNat ≤ 256) (hn : n.toNat ≤ 256) :
    execTransfer a n s = .next (beginSend a true n s) := by
  refine accepting_pass _ s ?_
  rw [(isOpen_check s).mpr hc, (monRunning_check s).mpr hm, (txLenTooLong_check s).mpr hl,
    (expectTooLong_check n).mpr hn]
  rfl

end

/-- Settles O19: both commands begin the same send, and differ in the transaction context. -/
theorem sendAndTransferHandOverTheFrame : Obligations.SendAndTransferHandOverTheFrame := by
  intro a n s hc hm hl hn
  refine ⟨(txFrame s).1, frameOf a (txFrame s).1, (txFrame s).2, useOf_useEntries .., rfl, ?_, ?_⟩
  · exact (execSend_accepted hc hm a hl).trans (congrArg _ (beginSend_eq ..))
  · exact (execTransfer_accepted hc hm a hl hn).trans (congrArg _ (beginSend_eq ..))

end Sys2Proof.Laws
end

section
/-! Receiving (41_transport.md R188 to R198) and the device's events around it (R162 to R166, R180 to R182): the bytes a
receive takes, and what each event and each last tick leaves. -/

namespace Sys2Proof.Laws

open Sys2Proof.Machine

/-! ### Buffer entries -/

section
variable (m : Memory) (bs : List Byte) (a k : Nat)

theorem read_writeAll_take (h : a + k ≤ 256) {i : Nat} (hi : i < min bs.length k) :
    (m.writeAll a (bs.take k)).read (a + i) = bs[i]? := by
  have hl : (bs.take k).length = min k bs.length := List.length_take
  rw [read_writeAll_inside _ _ _ _ (by omega) (by rw [Config.bufSize]; omega), List.getElem?_take_of_lt (by omega)]

theorem sameOutside_writeAll_take : SameOutside a (min bs.length k) m (m.writeAll a (bs.take k)) := by
  have hl : (bs.take k).length = min k bs.length := List.length_take
  rintro x (h | h)
  · exact read_writeAll_below _ _ _ _ h
  · exact read_writeAll_above _ _ _ _ (by omega)

/-- Written entries and the bytes put after them make a longer run of written entries. -/
theorem isSome_writeAll_take (hm : ∀ i, i < a → (m.read i).isSome = true) (h : a + k ≤ 256) :
    ∀ i, i < a + min bs.length k → ((m.writeAll a (bs.take k)).read i).isSome = true := by
  intro i hi
  by_cases hia : i < a
  · rw [read_writeAll_below _ _ _ _ hia]
    exact hm i hia
  · obtain ⟨j, rfl⟩ := Nat.exists_eq_add_of_le (Nat.le_of_not_lt hia)
    rw [read_writeAll_take m bs a k h (by omega), List.getElem?_eq_getElem (by omega)]
    rfl

end

theorem entries_unique {m : Memory} {k : Nat} {bs cs : List Byte} (h : Entries m k bs) (h' : Entries m k cs) :
    bs = cs := by
  obtain ⟨hl, hr⟩ := h
  obtain ⟨hl', hr'⟩ := h'
  refine List.ext_getElem? fun i => ?_
  by_cases hi : i < k
  · exact (hr i hi).symm.trans (hr' i hi)
  · rw [List.getElem?_eq_none (by omega), List.getElem?_eq_none (by omega)]

/-! ### A fixed-length receive (R190) -/

/-- `rxbuf` with the bytes a fixed-length receive takes: those of `rx_fifo`, up to the missing count. -/
def takenBuf (s : State) : Memory :=
  s.rxbuf.writeAll s.rxLen.toNat (s.rxFifo.take (s.rxExpect.toNat - s.rxLen.toNat))

section
variable {s : State} (hp : s.phase = .rFixed) (hm : s.monState ≠ .running)
include hp hm

theorem quiesce_fixed_short (h : s.rxFifo.length < s.rxExpect.toNat - s.rxLen.toNat) :
    quiesce s =
      { s with rxbuf := takenBuf s, rxLen := s.rxLen + BitVec.ofNat 16 s.rxFifo.length, rxFifo := [] } := by
  rw [quiesce, quiesceTransport_short s hp h, takenBuf, List.take_of_length_le (Nat.le_of_lt h)]
  exact quiesceMonitor_of_ne _ hm

theorem quiesce_fixed_full (hle : s.rxLen.toNat ≤ s.rxExpect.toNat)
    (h : s.rxExpect.toNat - s.rxLen.toNat ≤ s.rxFifo.length) {bs : List Byte}
    (hbs : Entries (takenBuf s) s.rxExpect.toNat bs) :
    quiesce s =
      { s with
        rxbuf := takenBuf s, rxLen := s.rxExpect, rxFifo := s.rxFifo.drop (s.rxExpect.toNat - s.rxLen.toNat),
        err := .none, phase := .idle, tmr := 0, curTransfer := false, curExpected := 0, txShadow := [],
        trace := s.trace ++ receiveTrace s.cfg bs } := by
  rw [quiesce, quiesceTransport_full s hp hle h, finishRx_entries .none _ bs hbs]
  exact quiesceMonitor_of_ne _ hm

end

/-- Settles O41: the two cases of the loop; with the count met all entries below it are written. -/
theorem fixedReceiveTakesAvailableBytes : Obligations.FixedReceiveTakesAvailableBytes := by
  intro s hp hm hle h256 hrec
  have hsum : s.rxLen.toNat + (s.rxExpect.toNat - s.rxLen.toNat) ≤ 256 := by omega
  refine ⟨takenBuf s, fun i hi => read_writeAll_take _ _ _ _ hsum hi, sameOutside_writeAll_take _ _ _ _,
    quiesce_fixed_short hp hm, fun h => ?_⟩
  have hwritten := isSome_writeAll_take s.rxbuf s.rxFifo s.rxLen.toNat _ hrec hsum
  obtain ⟨bs, hbs⟩ := exists_entries (takenBuf s) s.rxExpect.toNat fun i hi => hwritten i (by omega)
  exact ⟨bs, hbs, quiesce_fixed_full hp hm hle h hbs⟩

/-! ### RECEIVE (R176) -/

theorem execReceive_closed {n : Half} {s : State} (hc : s.conn = .closed) :
    execReceive n s = .next (setErr .notOpen s) :=
  accepting_fail _ s (if_pos (by simp [isOpen, hc]))

theorem execReceive_running {n : Half} {s : State} (hc : s.conn = .opened) (hm : s.monState = .running) :
    execReceive n s = .next (setErr .modeConflict s) := by
  refine accepting_fail _ s ?_
  rw [(isOpen_check s).mpr hc, (monRunning_eq s).mpr hm]
  rfl

theorem execReceive_tooLong {n : Half} {s : State} (hc : s.conn = .opened) (hm : s.monState ≠ .running)
    (hn : 256 < n.toNat) : execReceive n s = .next (setErr .invalidArgument s) := by
  refine accepting_fail _ s ?_
  rw [(isOpen_check s).mpr hc, (monRunning_check s).mpr hm, expectTooLong, decide_eq_true hn]
  rfl

theorem execReceive_accepted {n : Half} {s : State} (hc : s.conn = .opened) (hm : s.monState ≠ .running)
    (hn : n.toNat ≤ 256) :
    execReceive n s = .next (startReceive n (setErr .none { s with curTransfer := false, curExpected := 0 })) := by
  refine accepting_pass _ s ?_
  rw [(isOpen_check s).mpr hc, (monRunning_check s).mpr hm, (expectTooLong_check n).mpr hn]
  rfl

/-- Settles O20: the checks in their order, and then a receive that has taken nothing yet. -/
theorem receiveBegins : Obligations.ReceiveBegins := by
  refine ⟨fun w h => decode_of_operandsIn h rfl, fun n s => ⟨execReceive_closed, execReceive_running,
    execReceive_tooLong, fun hc hm hn => ?_⟩⟩
  intro t
  refine ⟨execReceive_accepted hc hm hn, fun h0 => ?_, fun h0 => ?_⟩
  · exact quiesce_of_no_read t (by rw [show t.phase = .rSettle from if_pos h0]; decide) hm
  · have hp : t.phase = .rFixed := if_neg h0
    have hlen : t.rxLen.toNat = 0 := rfl
    obtain ⟨m, hin, hout, hshort, hfull⟩ := fixedReceiveTakesAvailableBytes t hp hm (Nat.zero_le _) hn
      fun i hi => absurd hi (Nat.not_lt_zero i)
    simp only [hlen, Nat.sub_zero, Nat.zero_add] at hin hout hshort hfull
    refine ⟨m, hin, hout, fun h => ?_, fun h => ?_⟩
    · have hcount : t.rxLen + BitVec.ofNat 16 t.rxFifo.length = BitVec.ofNat 16 s.rxFifo.length :=
        BitVec.zero_add _
      rw [hshort h, hcount]
    · obtain ⟨bs, hbs, hq⟩ := hfull h
      have htaken : Entries m n.toNat (s.rxFifo.take n.toNat) :=
        ⟨List.length_take_of_le h, fun i hi => by
          rw [List.getElem?_take_of_lt hi]
          exact hin i (Nat.lt_min.mpr ⟨Nat.lt_of_lt_of_le hi h, hi⟩)⟩
      rw [hq, entries_unique hbs htaken]

end Sys2Proof.Laws
end

section
/-! What the device's events and the last tick of each timed phase leave (41_transport.md R162 to R166, R180 to R198). -/

namespace Sys2Proof.Laws

open Sys2Proof.Machine

/-! ### An arriving byte (R162) -/

section
variable {b : Byte} {s : State}

theorem rxByte_lost (hc : s.conn = .closed) : rxByte b s = s := by simp [rxByte, isOpen, hc]

theorem rxByte_kept (hc : s.conn = .opened) (h : s.rxFifo.length < s.cfg.rxFifoDepth) :
    rxByte b s = { s with rxFifo := s.rxFifo ++ [b] } := by
  rw [rxByte, if_pos ((isOpen_eq s).mpr hc), if_pos h]

theorem rxByte_dropped (hc : s.conn = .opened) (h : s.cfg.rxFifoDepth ≤ s.rxFifo.length) :
    rxByte b s = { s with rxOvr := true } := by
  rw [rxByte, if_pos ((isOpen_eq s).mpr hc), if_neg (Nat.not_lt.mpr h)]

/-- A byte that no read takes (R162). -/
theorem step_rxByte_unread {rest : List Event} (hw : s.cfg.wf = true) (hi : s.inputs = .rxByte b :: rest)
    (hp : s.phase ≠ .rFixed) (hm : s.monState ≠ .running) :
    step s = .next (rxByte b { s with inputs := rest, openAnswer := none }) := by
  rw [step_rxByte hw hi]
  exact congrArg _ (quiesce_of_no_read _ (by rw [rxByte_phase]; exact hp) (by rw [rxByte_monState]; exact hm))

/-- A fixed-length receive has taken all earlier bytes, so the arriving one is the only one there (R44(c)). -/
theorem step_rxByte_fixed {rest : List Event} (hs : Inv s) (hi : s.inputs = .rxByte b :: rest) (hp : s.phase = .rFixed) :
    step s = .next (quiesce { s with inputs := rest, openAnswer := none, rxFifo := [b] }) := by
  obtain ⟨-, -, hf⟩ := hs.fixedReceive hp
  obtain ⟨-, -, -, -, hdepth, -⟩ := config_bounds hs.config
  have hroom : s.rxFifo.length < s.cfg.rxFifoDepth := by rw [hf]; exact hdepth
  have hkept : rxByte b { s with inputs := rest, openAnswer := none } =
      { s with inputs := rest, openAnswer := none, rxFifo := s.rxFifo ++ [b] } :=
    rxByte_kept (hs.busyIsOpen (by rw [hp]; decide)) hroom
  rw [step_rxByte hs.config hi, hkept, hf]
  rfl

end

/-- Settles O37: a byte that no read takes, and a fixed-length receive with this one byte to take. -/
theorem arrivingByteIsBuffered : Obligations.ArrivingByteIsBuffered := by
  intro s b rest hs hi
  refine ⟨fun hp hm => ?_, fun hp => ?_⟩
  · rw [step_rxByte_unread hs.config hi hp hm]
    exact ⟨fun hc => congrArg _ (rxByte_lost hc), fun hc h => congrArg _ (rxByte_kept hc h),
      fun hc h => congrArg _ (rxByte_dropped hc h.ge)⟩
  · obtain ⟨hlt, h256, hf⟩ := hs.fixedReceive hp
    have hlt' : s.rxLen.toNat < s.rxExpect.toNat := hlt
    have hm := monitor_not_running hs (by rw [hp]; decide)
    obtain ⟨m, hin, hout, hshort, hfull⟩ := fixedReceiveTakesAvailableBytes
      { s with inputs := rest, openAnswer := none, rxFifo := [b] } hp hm hlt'.le h256 hs.received
    have hone : min [b].length (s.rxExpect.toNat - s.rxLen.toNat) = 1 := by rw [List.length_singleton]; omega
    simp only [hone] at hin hout
    rw [step_rxByte_fixed hs hi hp]
    refine ⟨m, hin 0 Nat.zero_lt_one, hout, fun h => ?_, fun h => ?_⟩
    · rw [hshort (show 1 < s.rxExpect.toNat - s.rxLen.toNat by omega), hf]
      rfl
    · obtain ⟨bs, hbs, hq⟩ := hfull (show s.rxExpect.toNat - s.rxLen.toNat ≤ 1 by omega)
      have hnone : [b].drop (s.rxExpect.toNat - s.rxLen.toNat) = s.rxFifo := by
        rw [hf, List.drop_of_length_le (by rw [List.length_singleton]; omega)]
      refine ⟨bs, hbs, ?_⟩
      rw [hq]
      simp only [hnone]

/-! ### Write results (R180, R181) -/

theorem step_writeFail {s : State} {k : Nat} {rest : List Event} (hs : Inv s) (hp : s.phase = .sWrite)
    (hk : k ≤ s.txShadow.length) (hi : s.inputs = .writeFail k :: rest) :
    step s = .next (writeFail k { s with inputs := rest, openAnswer := none }) := by
  have hm := monitor_not_running hs (by rw [hp]; decide)
  rw [step_enabled s _ rest hs.config hi (by simp [enabled, hp, hk])]
  exact congrArg _ (quiesce_of_no_read (writeFail k { s with inputs := rest, openAnswer := none }) nofun hm)

/-- Settles O38: no read is pending after either result. -/
theorem writeResultsContinueOrEnd : Obligations.WriteResultsContinueOrEnd :=
  fun _ _ hs hp => ⟨step_writeOk hs hp, fun _ hk hi => step_writeFail hs hp hk hi⟩

/-! ### Events with no move (R163, R164, R166) -/

theorem tickTransport_untimed {s : State} (hp : s.phase = .idle ∨ s.phase = .sWrite) : tickTransport s = s := by
  obtain hp | hp := hp <;> simp [tickTransport, hp]

/-- Settles O39: the events that are not enabled, and a tick with no timer running. -/
theorem disabledDeviceEventsHaveNoMove : Obligations.DisabledDeviceEventsHaveNoMove := by
  intro s rest hw
  refine ⟨fun hf hst hm hi => ?_, fun hp hi => ?_, fun k hk hi => ?_, fun hp hm hi => ?_⟩
  · exact step_disabled s _ rest hw hi (by simp [enabled, readPending, monRunning, hf, hst, hm])
  · exact step_disabled s _ rest hw hi (decide_eq_false hp)
  · refine step_disabled s _ rest hw hi ?_
    obtain hp | hlong := hk
    · simp [enabled, hp]
    · simp [enabled, hlong]
  · have hfixed : s.phase ≠ .rFixed := by obtain hp | hp := hp <;> (rw [hp]; decide)
    rw [step_tick hw hm hi, tickTransport_untimed (by exact hp), quiesce_of_no_read _ (by exact hfixed) (by exact hm)]

/-! ### Ending a receive (R192, R194, R196) -/

theorem quiesce_finishRx {e : ErrCode} {s : State} (hm : s.monState ≠ .running) :
    quiesce (finishRx e s) = finishRx e s :=
  quiesce_of_no_read _ (by rw [finishRx_phase]; decide) (by rw [finishRx_monState]; exact hm)

/-- Settles O40: the last tick leaves the idle block or a receive that has taken nothing yet. -/
theorem delayTicksEndInTheReceive : Obligations.DelayTicksEndInTheReceive := by
  intro s rest hs hp hi
  have hm := monitor_not_running hs (by rw [hp]; decide)
  refine ⟨fun h => step_tick_counts hs hi (by rwa [timerLimit_sIfd hp]), fun h ht => ?_, fun h ht => ?_⟩
  · rw [step_tick hs.config hm hi, tickTransport_ifd_last (by exact hp) (by exact h)]
    dsimp only
    rw [ht]
    exact congrArg _ (quiesce_of_no_read (complete .none { s with inputs := rest, openAnswer := none }) nofun hm)
  · rw [step_tick hs.config hm hi, tickTransport_ifd_last (by exact hp) (by exact h)]
    dsimp only
    rw [ht]
    rfl

/-- Settles O42: the receive ends with the entries it has collected. -/
theorem receiveWindowEnds : Obligations.ReceiveWindowEnds := by
  intro s rest hs hp hi
  have hm := monitor_not_running hs (by rw [hp]; decide)
  refine ⟨fun h => step_tick_counts hs hi (by rwa [timerLimit_rFixed hp]), fun h => ?_⟩
  obtain ⟨bs, hbs⟩ := entries_of_received s hs.received
  refine ⟨bs, hbs, ?_⟩
  rw [step_tick hs.config hm hi, tickTransport_fixed_last (by exact hp) (by exact h), quiesce_finishRx (by exact hm),
    finishRx_entries _ _ bs (by exact hbs)]

/-- The drain, with the number of bytes it takes written out (R194). -/
theorem drainFree_eq (s : State) :
    drainFree s =
      { s with
        rxbuf := s.rxbuf.writeAll 0 (s.rxFifo.take 256), rxFifo := s.rxFifo.drop 256,
        rxLen := BitVec.ofNat 16 (min s.rxFifo.length 256), rxOvr := s.rxOvr || decide (256 < s.rxFifo.length) } := by
  have htake : s.rxFifo.take (min s.rxFifo.length 256) = s.rxFifo.take 256 := by
    rw [Nat.min_comm, ← List.take_eq_take_min]
  have hdrop : s.rxFifo.drop (min s.rxFifo.length 256) = s.rxFifo.drop 256 := by
    rw [Nat.min_comm, ← List.drop_eq_drop_min]
  have hrest : (!(s.rxFifo.drop 256).isEmpty) = decide (256 < s.rxFifo.length) := by
    rw [Bool.eq_iff_iff, Bool.not_eq_true', List.isEmpty_eq_false_iff, decide_eq_true_eq, Ne, List.drop_eq_nil_iff,
      Nat.not_le]
  unfold drainFree
  dsimp only
  rw [htake, hdrop, hrest]

/-- Settles O43: the entries below `rx_len` are the bytes drained. -/
theorem settleDelayDrains : Obligations.SettleDelayDrains := by
  intro s rest hs hp hi
  have hm := monitor_not_running hs (by rw [hp]; decide)
  refine ⟨fun h => step_tick_counts hs hi (by rwa [timerLimit_rSettle hp]), fun h => ?_⟩
  have hin : ∀ i, i < min s.rxFifo.length 256 →
      (s.rxbuf.writeAll 0 (s.rxFifo.take 256)).read i = s.rxFifo[i]? := fun i hi => by
    have hread := read_writeAll_take s.rxbuf s.rxFifo 0 256 (Nat.le_refl _) hi
    rwa [Nat.zero_add] at hread
  have hcount : (BitVec.ofNat 16 (min s.rxFifo.length 256)).toNat = min s.rxFifo.length 256 := by
    rw [BitVec.toNat_ofNat]; omega
  have hent : Entries (s.rxbuf.writeAll 0 (s.rxFifo.take 256))
      (BitVec.ofNat 16 (min s.rxFifo.length 256)).toNat (s.rxFifo.take 256) := by
    rw [hcount]
    refine ⟨by rw [List.length_take, Nat.min_comm], fun i hi => ?_⟩
    rw [hin i hi, List.getElem?_take_of_lt (by omega)]
  refine ⟨_, hin, sameOutside_writeAll_take _ _ _ _, ?_⟩
  rw [step_tick hs.config hm hi, tickTransport_settle_last (by exact hp) (by exact h), quiesce_finishRx (by exact hm),
    drainFree_eq, finishRx_entries _ _ _ (by exact hent)]
  simp only [List.isEmpty_iff]

/-- With a receive under way and no monitor, a read failure is the receive's (R196). -/
theorem rxError_reading {s : State} (hp : s.phase = .rFixed ∨ s.phase = .rSettle) (hm : s.monState ≠ .running) :
    rxErrorMonitor (rxErrorTransport s) = finishRx .readError s := by
  rw [rxErrorTransport, if_pos ((readPending_eq s).mpr hp)]
  exact rxErrorMonitor_of_ne (by rw [finishRx_monState]; exact hm)

theorem step_rxError_reading {s : State} {rest : List Event} (hs : Inv s) (hp : s.phase = .rFixed ∨ s.phase = .rSettle)
    (hi : s.inputs = .rxError :: rest) :
    step s = .next (finishRx .readError { s with inputs := rest, openAnswer := none }) := by
  have hm := monitor_not_running hs (by obtain hp | hp := hp <;> (rw [hp]; decide))
  have hen : enabled .rxError { s with inputs := rest } = true :=
    (Bool.or_eq_true ..).mpr (.inl ((readPending_eq _).mpr hp))
  have hrule := rxError_reading (s := { s with inputs := rest, openAnswer := none }) hp hm
  rw [step_enabled s _ rest hs.config hi hen]
  exact (congrArg (fun t => Host.Outcome.next (quiesce t)) hrule).trans (congrArg _ (quiesce_finishRx hm))

/-- Settles O44: either receive phase ends with the entries it has collected. -/
theorem readFailureEndsTheReceive : Obligations.ReadFailureEndsTheReceive := by
  intro s rest hs hp hi
  obtain ⟨bs, hbs⟩ := entries_of_received s hs.received
  refine ⟨bs, hbs, ?_⟩
  rw [step_rxError_reading hs hp hi, finishRx_entries _ _ bs (by exact hbs)]

end Sys2Proof.Laws
end

section
/-! A TRANSFER from its write to its response (41_transport.md R178, R180 to R190): the runs of ticks and arriving bytes that
deliver it. -/

namespace Sys2Proof.Laws

open Sys2Proof.Machine

/-! ### Ticks before the limit -/

/-- A state after `k` ticks that only counted. -/
abbrev afterTicks (k : Nat) (o : Option Bool) (rest : List Event) (s : State) : State :=
  { s with inputs := rest, openAnswer := o, tmr := s.tmr + k }

theorem run_ticks (k : Nat) : ∀ (s : State) (rest : List Event), Inv s → s.tmr + k < timerLimit s →
    s.inputs = List.replicate k .tick ++ rest →
    ∃ o, Inv (afterTicks k o rest s) ∧
      ∀ n, Host.Core.run Sys2Proof.core (k + n) s = Host.Core.run Sys2Proof.core n (afterTicks k o rest s) := by
  induction k with
  | zero =>
    intro s rest hs _ hi
    obtain rfl : s.inputs = rest := hi
    exact ⟨s.openAnswer, hs, fun n => by rw [Nat.zero_add]; rfl⟩
  | succ k ih =>
    intro s rest hs hlim hi
    rw [List.replicate_succ, List.cons_append] at hi
    have hstep := step_tick_counts hs hi (by omega)
    obtain ⟨o, hinv, hrun⟩ := ih _ rest (everyStepKeepsTheInvariants _ _ hs hstep)
      (show s.tmr + 1 + k < timerLimit s by omega) rfl
    have hstate : afterTicks k o rest
        { s with inputs := List.replicate k .tick ++ rest, openAnswer := none, tmr := s.tmr + 1 } =
        afterTicks (k + 1) o rest s := by
      simp only [afterTicks, Nat.add_assoc, Nat.add_comm 1 k]
    rw [hstate] at hinv hrun
    refine ⟨o, hinv, fun n => ?_⟩
    rw [Nat.add_right_comm, run_succ _ hstep, hrun]

/-! ### The bytes of a response -/

/-- Bytes with the ticks before each, as events. -/
abbrev arrivals (spaced : List (Byte × Nat)) : List Event :=
  spaced.flatMap fun p => List.replicate p.2 .tick ++ [.rxByte p.1]

/-- The steps those events take. -/
abbrev arrivalSteps (spaced : List (Byte × Nat)) : Nat := (spaced.map fun p => p.2 + 1).sum

/-- From `s`, a receive that ends well in `t` with the bytes `bs`. -/
structure Delivers (s t : State) (rest : List Event) (bs : List Byte) : Prop where
  phase    : t.phase = .idle
  err      : t.err = .none
  wire     : t.wire = s.wire
  rxLen    : t.rxLen = s.rxExpect
  rxExpect : t.rxExpect = s.rxExpect
  entries  : Entries t.rxbuf s.rxExpect.toNat bs
  rxFifo   : t.rxFifo = []
  inputs   : t.inputs = rest
  trace    : t.trace = s.trace ++ receiveTrace s.cfg bs

theorem entries_snoc {m m' : Memory} {k : Nat} {bs : List Byte} {b : Byte} (h : Entries m k bs)
    (hb : m'.read k = some b) (hout : SameOutside k 1 m m') : Entries m' (k + 1) (bs ++ [b]) := by
  obtain ⟨rfl, hread⟩ := h
  refine ⟨List.length_append, fun i hi => ?_⟩
  by_cases hlt : i < bs.length
  · rw [hout i (.inl hlt), hread i hlt, List.getElem?_append_left hlt]
  · obtain rfl : i = bs.length := by omega
    rw [hb, List.getElem?_concat_length]

/-- A fixed-length receive whose missing bytes all arrive in the window ends with them. -/
theorem run_arrivals (spaced : List (Byte × Nat)) : ∀ (s : State) (rest : List Event) (got : List Byte), Inv s →
    s.phase = .rFixed → Entries s.rxbuf s.rxLen.toNat got → spaced ≠ [] →
    s.rxLen.toNat + spaced.length = s.rxExpect.toNat → s.tmr + (spaced.map Prod.snd).sum < s.cfg.tRx →
    s.inputs = arrivals spaced ++ rest →
    ∃ t, Host.Core.run Sys2Proof.core (arrivalSteps spaced) s = .next t ∧
      Delivers s t rest (got ++ spaced.map Prod.fst) := by
  induction spaced with
  | nil => intro _ _ _ _ _ _ h; exact absurd rfl h
  | cons p tail ih =>
    obtain ⟨b, k⟩ := p
    intro s rest got hs hp hgot _ hlen hwin hi
    simp only [List.length_cons] at hlen
    simp only [List.map_cons, List.sum_cons] at hwin
    simp only [arrivals, List.flatMap_cons, List.append_assoc, List.singleton_append] at hi
    obtain ⟨o, hu, hrun⟩ := run_ticks k s _ hs (by rw [timerLimit_rFixed hp]; omega) hi
    obtain ⟨-, hfixed⟩ := arrivingByteIsBuffered _ b (arrivals tail ++ rest) hu rfl
    obtain ⟨m, hb, hout, hgo, hend⟩ := hfixed hp
    have hgot' : Entries m (s.rxLen.toNat + 1) (got ++ [b]) := entries_snoc hgot hb hout
    have hsteps : arrivalSteps ((b, k) :: tail) = k + (arrivalSteps tail + 1) := by
      simp only [arrivalSteps, List.map_cons, List.sum_cons]
      omega
    rw [hsteps, hrun]
    by_cases htail : tail = []
    · subst htail
      have hlast : s.rxLen.toNat + 1 = s.rxExpect.toNat := hlen
      obtain ⟨bs, hbs, hstep⟩ := hend hlast
      obtain rfl : bs = got ++ [b] := entries_unique hbs (hlast ▸ hgot')
      obtain ⟨-, -, hf⟩ := hs.fixedReceive hp
      exact ⟨_, run_succ 0 hstep, rfl, rfl, rfl, rfl, rfl, hbs, hf, rfl, rfl⟩
    · have hmore := List.length_pos_of_ne_nil htail
      have hstep := hgo (show s.rxLen.toNat + 1 < s.rxExpect.toNat by omega)
      have hcount : (s.rxLen + 1).toNat = s.rxLen.toNat + 1 := by
        have hbound := s.rxExpect.isLt
        rw [BitVec.toNat_add]
        exact Nat.mod_eq_of_lt (show s.rxLen.toNat + 1 < 65536 by omega)
      obtain ⟨t, ht, hd⟩ := ih _ rest (got ++ [b]) (everyStepKeepsTheInvariants _ _ hu hstep) hp (hcount ▸ hgot') htail
        (show (s.rxLen + 1).toNat + tail.length = s.rxExpect.toNat by omega)
        (show s.tmr + k + (tail.map Prod.snd).sum < s.cfg.tRx by omega) rfl
      rw [List.append_assoc] at hd
      exact ⟨t, (run_succ _ hstep).trans ht, { hd with }⟩

/-! ### The transfer -/

/-- The receive a TRANSFER of `s` begins, with nothing buffered and the events `rest` to come. -/
abbrev awaiting (rest : List Event) (s : State) : State :=
  { s with
    inputs := rest, openAnswer := none, rxLen := 0, rxExpect := s.curExpected, tmr := 0, phase := .rFixed }

/-- The last tick of the inter-frame delay of a TRANSFER with nothing buffered. -/
theorem step_ifd_awaiting {s : State} {rest : List Event} (hs : Inv s) (hp : s.phase = .sIfd)
    (hi : s.inputs = .tick :: rest) (ht : s.tmr + 1 = s.cfg.tIfd) (htr : s.curTransfer = true)
    (hn : s.curExpected ≠ 0) (hf : s.rxFifo = []) : step s = .next (awaiting rest s) := by
  obtain ⟨-, -, hlast⟩ := delayTicksEndInTheReceive s rest hs hp hi
  rw [hlast ht htr, if_neg hn]
  have hm := monitor_not_running hs (by rw [hp]; decide)
  exact congrArg _ (quiesce_of_quiet (awaiting rest s) ⟨fun _ => ⟨hn.symm, hf⟩, fun h => absurd h hm⟩)

/-- A write that succeeds and the delay after it lead to the receive, with the frame on the line. -/
theorem run_write_and_delay {s : State} {rest : List Event} (hs : Inv s) (hp : s.phase = .sWrite)
    (htr : s.curTransfer = true) (hn : s.curExpected ≠ 0) (hf : s.rxFifo = [])
    (hi : s.inputs = .writeOk :: (List.replicate s.cfg.tIfd .tick ++ rest)) :
    Inv (awaiting rest { s with wire := s.wire ++ s.txShadow }) ∧
      ∀ n, Host.Core.run Sys2Proof.core (1 + s.cfg.tIfd + n) s =
        Host.Core.run Sys2Proof.core n (awaiting rest { s with wire := s.wire ++ s.txShadow }) := by
  obtain ⟨hifd, -⟩ := config_bounds hs.config
  obtain ⟨d, hd⟩ : ∃ d, s.cfg.tIfd = d + 1 := ⟨s.cfg.tIfd - 1, by omega⟩
  have hwrite := step_writeOk hs hp hi
  obtain ⟨o, hu, hrun⟩ := run_ticks d _ (.tick :: rest) (everyStepKeepsTheInvariants _ _ hs hwrite)
    (show 0 + d < s.cfg.tIfd by omega)
    (by rw [hd, List.replicate_succ', List.append_assoc]; rfl)
  have hlast := step_ifd_awaiting hu rfl rfl (show 0 + d + 1 = s.cfg.tIfd by omega) htr hn hf
  refine ⟨everyStepKeepsTheInvariants _ _ hu hlast, fun n => ?_⟩
  have hsteps : 1 + s.cfg.tIfd + n = d + (n + 1) + 1 := by omega
  rw [hsteps, run_succ _ hwrite, hrun, run_succ _ hlast]

/-- Settles O59: the write and the delay lead to a receive with nothing collected, whose bytes all arrive in its window. -/
theorem transferDeliversTheResponse : Obligations.TransferDeliversTheResponse := by
  intro s spaced rest hs hp htr hf hne hlen hwin hi response
  have hpos := List.length_pos_of_ne_nil hne
  have hn : s.curExpected ≠ 0 := fun h => by rw [hlen, h] at hpos; exact absurd hpos (Nat.lt_irrefl 0)
  obtain ⟨hu, hrun⟩ := run_write_and_delay hs hp htr hn hf hi
  obtain ⟨t, ht, hd⟩ := run_arrivals spaced _ rest [] hu rfl ⟨rfl, fun i hi => absurd hi (Nat.not_lt_zero i)⟩ hne
    (show 0 + spaced.length = s.curExpected.toNat by omega)
    (show 0 + (spaced.map Prod.snd).sum < s.cfg.tRx by omega) rfl
  obtain ⟨hphase, herr, hwire, hrxLen, hrxExpect, hentries, hfifo, hinputs, htrace⟩ := hd
  exact ⟨t, (hrun _).trans ht, hphase, herr, hwire, hrxLen, hrxExpect, hlen ▸ hentries, hfifo, hinputs, htrace⟩

end Sys2Proof.Laws
end

section
/-! A monitor run (42_monitor.md R210 to R222): the commands that begin it and ask it to stop, and what a byte, a tick and
a read failure do to it. -/

namespace Sys2Proof.Laws

open Sys2Proof.Machine

/-! ### MON_START and MON_STOP (R210, R212) -/

/-- A command that needs an open connection and no running monitor is rejected while one runs, whatever it checks
after. -/
theorem accepting_running {e : ErrCode} {checks : List (Bool × ErrCode)} {f : State → State} {s : State}
    (hc : s.conn = .opened) (hm : s.monState = .running) :
    accepting ((!isOpen s, .notOpen) :: (monRunning s, e) :: checks) f s = .next (setErr e s) := by
  refine accepting_fail f s ?_
  rw [(isOpen_check s).mpr hc, (monRunning_eq s).mpr hm]
  rfl

theorem execMonStart_closed {f : Byte} {s : State} (hc : s.conn = .closed) :
    execMonStart f s = .next (setErr .notOpen s) :=
  accepting_fail _ s (if_pos (by simp [isOpen, hc]))

theorem execMonStart_running {f : Byte} {s : State} (hc : s.conn = .opened) (hm : s.monState = .running) :
    execMonStart f s = .next (setErr .badState s) :=
  accepting_running hc hm

theorem execMonStart_tooLarge {f : Byte} {s : State} (hc : s.conn = .opened) (hm : s.monState ≠ .running)
    (hf : 63 < f.toNat) : execMonStart f s = .next (setErr .invalidArgument s) := by
  refine accepting_fail _ s ?_
  rw [(isOpen_check s).mpr hc, (monRunning_check s).mpr hm, filterTooLarge, decide_eq_true hf]
  rfl

theorem execMonStart_accepted {f : Byte} {s : State} (hc : s.conn = .opened) (hm : s.monState ≠ .running)
    (hf : f.toNat ≤ 63) :
    execMonStart f s = .next
      { s with
        monState := .running, monFilter := f, monStopReq := false, monBuf := [], monOvfPend := false, monErr := false,
        mtmr := 0, err := .none } := by
  refine accepting_pass _ s ?_
  rw [(isOpen_check s).mpr hc, (monRunning_check s).mpr hm, (filterTooLarge_check f).mpr hf]
  rfl

theorem execMonStop_running {s : State} (hm : s.monState = .running) :
    execMonStop s = .next { s with monStopReq := true, err := .none } := by
  rw [execMonStop, if_pos ((monRunning_eq s).mpr hm)]
  rfl

theorem execMonStop_not_running {s : State} (hm : s.monState ≠ .running) :
    execMonStop s = .next { s with err := .none } := by
  rw [execMonStop, if_neg (by simpa using hm)]
  rfl

/-! ### Waiting bytes (R216) -/

/-- Quiescence of a run is its loop over the waiting bytes. -/
theorem quiesce_running {s : State} (hp : s.phase ≠ .rFixed) (hm : s.monState = .running) :
    quiesce s = takeMonitor s.rxFifo s := by
  rw [quiesce, quiesceTransport_of_ne s hp, quiesceMonitor, if_pos ((monRunning_eq s).mpr hm)]

/-- Settles O21: the checks in their order, and then the loop of a run whose frame is empty. -/
theorem monStartBeginsARun : Obligations.MonStartBeginsARun := by
  refine ⟨fun w h => decode_of_operandsIn h rfl, fun f s => ⟨execMonStart_closed, execMonStart_running,
    execMonStart_tooLarge, fun hc hm hf => ⟨execMonStart_accepted hc hm hf, fun hp => ?_⟩⟩⟩
  rw [quiesce_running (by rw [hp]; decide) rfl, takeMonitor_go _ _ rfl rfl]
  simp

/-- Settles O22: `OP` 0x31 is MON_STOP's, which sets the request of a running monitor. -/
theorem monStopRequests : Obligations.MonStopRequests :=
  ⟨fun _ h => decode_of_operandsIn h trivial, fun _ => ⟨execMonStop_running, execMonStop_not_running⟩⟩

/-! ### An arriving byte (R216) -/

section
variable {s : State} {rest : List Event}

theorem takeMonitor_singleton {b : Byte} (hm : s.monState = .running) :
    takeMonitor [b] s = { monByte b s with rxFifo := [] } := by
  rw [takeMonitor, if_pos ((monRunning_eq s).mpr hm)]
  rfl

/-- A run has taken all earlier bytes, so the arriving one is the only one there (R44(e)). -/
theorem step_rxByte_running {b : Byte} (hs : Inv s) (hm : s.monState = .running) (hi : s.inputs = .rxByte b :: rest) :
    step s = .next
      { monByte b { s with inputs := rest, openAnswer := none, rxFifo := [b] } with rxFifo := s.rxFifo } := by
  obtain ⟨hp, hc⟩ := hs.monitorExclusive hm
  obtain ⟨-, -, -, -, hdepth, -⟩ := config_bounds hs.config
  have hf := hs.monitorTakesAll hm
  have hkept : rxByte b { s with inputs := rest, openAnswer := none } =
      { s with inputs := rest, openAnswer := none, rxFifo := s.rxFifo ++ [b] } :=
    rxByte_kept hc (by rw [hf]; exact hdepth)
  rw [step_rxByte hs.config hi, hkept, quiesce_running (by rw [hp]; decide) (by exact hm), hf]
  exact congrArg _ (takeMonitor_singleton (by exact hm))

theorem step_rxByte_taken {b : Byte} (hs : Inv s) (hm : s.monState = .running) (hi : s.inputs = .rxByte b :: rest)
    (hq : s.monStopReq = false) :
    step s = .next
      { s with
        inputs := rest, openAnswer := none, mtmr := 0,
        monBuf := if s.monBuf.length < s.cfg.monBufMax then s.monBuf ++ [b] else s.monBuf,
        monOvfPend := if s.monBuf.length < s.cfg.monBufMax then s.monOvfPend else true } := by
  rw [step_rxByte_running hs hm hi, monByte_go b _ (by exact hq)]

theorem step_rxByte_stops {b : Byte} (hs : Inv s) (hm : s.monState = .running) (hi : s.inputs = .rxByte b :: rest)
    (hq : s.monStopReq = true) :
    step s = .next
      { s with
        inputs := rest, openAnswer := none, monState := .stopped, monBuf := [], monOvfPend := false,
        monStopReq := false, mtmr := 0 } := by
  rw [step_rxByte_running hs hm hi, monByte_stop b _ (by exact hq)]
  rfl

end

/-- Settles O47: one byte is one read attempt, and quiescence is the loop of them. -/
theorem monitorTakesAByte : Obligations.MonitorTakesAByte := by
  refine ⟨fun s b rest hs hm hi => ⟨step_rxByte_taken hs hm hi, step_rxByte_stops hs hm hi⟩, fun s hp hm => ?_⟩
  rw [quiesce_running hp hm]
  refine ⟨fun hf => by rw [hf, takeMonitor, ← hf], fun hq hf => ?_, fun b l hq hf => ?_⟩
  · rw [takeMonitor_go _ s hm hq, if_neg hf]
  · rw [hf, takeMonitor_stop b l s hm hq]
    rfl

/-! ### Silence (R218) -/

/-- What the timeout does to the frame, as one update. The pending bit marks a full buffer, so an empty frame has none
(R41). -/
theorem closeFrame_eq {s : State} (ho : s.monBuf = [] → s.monOvfPend = false) :
    closeFrame s =
      { s with
        monBuf := [], monOvfPend := false, monOvf := s.monOvf || (s.monOvfPend && decide (s.monBuf ≠ [])),
        reports :=
          if s.monBuf ≠ [] ∧ s.monOvfPend = false ∧ (s.monFilter = 0 ∨ s.monBuf.head? = some s.monFilter)
          then s.reports ++ [.monFrame s.monBuf] else s.reports } := by
  unfold closeFrame
  by_cases hb : s.monBuf = []
  · have hv := ho hb
    cases s
    simp_all
  · by_cases hv : s.monOvfPend = true
    · simp [hb, hv]
    · by_cases hf : passesFilter s = true
      · simp_all [passesFilter, report]
      · simp_all [passesFilter]

theorem monBufMax_pos {c : Config} (h : c.wf = true) : 0 < c.monBufMax := by
  obtain ⟨-, -, -, -, -, -, hmax⟩ := config_bounds h
  exact hmax

theorem overflow_none_of_empty {s : State} (hs : Inv s) (hb : s.monBuf = []) : s.monOvfPend = false := by
  refine Bool.eq_false_iff.mpr fun ho => ?_
  have hfull := hs.overflowFull ho
  rw [hb] at hfull
  exact (monBufMax_pos hs.config).ne hfull

section
variable {s : State} {rest : List Event}

theorem step_tick_running (hs : Inv s) (hm : s.monState = .running) (hi : s.inputs = .tick :: rest) :
    step s = .next (quiesce (tickMonitor { s with inputs := rest, openAnswer := none })) := by
  rw [step_enabled s _ rest hs.config hi rfl]
  have ht := tickTransport_untimed (s := { s with inputs := rest, openAnswer := none })
    (.inl (hs.monitorExclusive hm).1)
  exact congrArg (fun t => Host.Outcome.next (quiesce (tickMonitor t))) ht

theorem tickMonitor_counts (hm : s.monState = .running) (h : s.mtmr + 1 ≠ s.cfg.tGap) :
    tickMonitor s = { s with mtmr := s.mtmr + 1 } := by
  rw [tickMonitor, if_pos ((monRunning_eq s).mpr hm)]
  exact if_neg h

/-- The T_GAP-th tick closes the frame and begins the next read attempt, where a requested stop ends the run (R214,
R218). -/
theorem tickMonitor_closes (hm : s.monState = .running) (h : s.mtmr + 1 = s.cfg.tGap)
    (ho : s.monBuf = [] → s.monOvfPend = false) :
    tickMonitor s =
      { s with
        mtmr := 0, monBuf := [], monOvfPend := false,
        monOvf := s.monOvf || (s.monOvfPend && decide (s.monBuf ≠ [])),
        reports :=
          if s.monBuf ≠ [] ∧ s.monOvfPend = false ∧ (s.monFilter = 0 ∨ s.monBuf.head? = some s.monFilter)
          then s.reports ++ [.monFrame s.monBuf] else s.reports,
        monState := if s.monStopReq then .stopped else .running, monStopReq := false } := by
  have hlast : tickMonitor s = nextAttempt (closeFrame { s with mtmr := s.mtmr + 1 }) := by
    rw [tickMonitor, if_pos ((monRunning_eq s).mpr hm)]
    exact if_pos h
  rw [hlast, closeFrame_eq (by exact ho), nextAttempt]
  cases hq : s.monStopReq with
  | true => simp [stopRun]
  | false => simp [hm]

/-- A run has taken every byte, so an update that leaves the phase and `rx_fifo` alone leaves nothing to take. -/
theorem quiesce_of_run {t : State} (hs : Inv s) (hm : s.monState = .running) (hp : t.phase = s.phase)
    (hf : t.rxFifo = s.rxFifo) : quiesce t = t := by
  refine quiesce_of_quiet t ⟨fun h => ?_, fun _ => hf.trans (hs.monitorTakesAll hm)⟩
  cases (h.symm.trans hp).trans (hs.monitorExclusive hm).1

end

/-- Settles O48: before the limit a tick counts; at it the frame is closed and the next read attempt begins. -/
theorem silenceClosesTheFrame : Obligations.SilenceClosesTheFrame := by
  intro s rest hs hm hi
  rw [step_tick_running hs hm hi]
  refine ⟨fun h => ?_, fun h => ?_⟩
  · rw [tickMonitor_counts (by exact hm) (by exact h.ne)]
    exact congrArg _ (quiesce_of_run hs hm rfl rfl)
  · have hempty : s.monBuf = [] → s.monOvfPend = false := overflow_none_of_empty hs
    rw [tickMonitor_closes (by exact hm) (by exact h) (by exact hempty)]
    exact congrArg _ (quiesce_of_run hs hm rfl rfl)

/-! ### Read failures (R222) -/

theorem rxErrorMonitor_running {s : State} (hm : s.monState = .running) :
    rxErrorMonitor s =
      { s with
        monState := .stopped, monBuf := [], monOvfPend := false, monStopReq := false, mtmr := 0,
        monErr := if s.monStopReq then s.monErr else true,
        reports := if s.monStopReq then s.reports else s.reports ++ [.monReadError] } := by
  rw [rxErrorMonitor, if_pos ((monRunning_eq s).mpr hm)]
  cases hq : s.monStopReq <;> simp [stopRun, report]

/-- Settles O49: the failure is the run's alone, and no read is pending after it. -/
theorem readFailureStopsTheMonitor : Obligations.ReadFailureStopsTheMonitor := by
  intro s rest hs hm hi
  obtain ⟨hp, -⟩ := hs.monitorExclusive hm
  have hen : enabled .rxError { s with inputs := rest } = true :=
    (Bool.or_eq_true ..).mpr (.inr ((monRunning_eq _).mpr hm))
  have htransport : rxErrorTransport { s with inputs := rest, openAnswer := none } =
      { s with inputs := rest, openAnswer := none } := if_neg (by simp [readPending, hp])
  rw [step_enabled s _ rest hs.config hi hen]
  change Host.Outcome.next (quiesce (rxErrorMonitor (rxErrorTransport _))) = _
  rw [htransport, rxErrorMonitor_running (by exact hm)]
  exact congrArg _ (quiesce_of_run hs hm rfl rfl)

end Sys2Proof.Laws
end

section
/-! What a run does not touch (42_monitor.md R230), by the events of the device and the time base it meets, and that a
requested stop takes effect (R224): a host access changes nothing of a run with a stop requested. -/

namespace Sys2Proof.Laws

open Sys2Proof.Machine

/-! ### The events of the device and the time base -/

/-- The events of the device and the time base a running monitor meets: a write result has no move in the idle block. -/
theorem device_event_cases {s : State} {e : Event} (hp : s.phase = .idle) (he : isHostEvent e = false)
    (hr : isReset e = false) (hen : enabled e s = true) :
    (∃ ok, e = .openAnswer ok) ∨ (∃ b, e = .rxByte b) ∨ e = .rxError ∨ e = .tick := by
  cases e with
  | host _ _ | resume _ => cases he
  | reset _ => cases hr
  | writeOk | writeFail _ => simp [enabled, hp] at hen
  | openAnswer ok => exact .inl ⟨ok, rfl⟩
  | rxByte b => exact .inr (.inl ⟨b, rfl⟩)
  | rxError => exact .inr (.inr (.inl rfl))
  | tick => exact .inr (.inr (.inr rfl))

section
variable {s : State} {rest : List Event}

/-- An announced open answer changes nothing else. -/
theorem step_openAnswer {ok : Bool} (hs : Inv s) (hi : s.inputs = .openAnswer ok :: rest) :
    step s = .next { s with inputs := rest, openAnswer := some ok } := by
  rw [step_enabled s _ rest hs.config hi rfl]
  exact congrArg Host.Outcome.next
    (quiesce_of_same (t := { s with inputs := rest, openAnswer := some ok }) hs rfl rfl rfl rfl rfl)

/-- A tick of a run is one before the silence limit or the one at it (R44(f)). -/
theorem tick_before_or_at_gap (hs : Inv s) : s.mtmr + 1 < s.cfg.tGap ∨ s.mtmr + 1 = s.cfg.tGap :=
  Nat.lt_or_eq_of_le hs.monitorTimer

end

/-- What a running monitor may change in an event of the device or the time base (R230). -/
abbrev RunChanges (s t : State) : Prop :=
  t = { s with
    openAnswer := t.openAnswer, monState := t.monState, monStopReq := t.monStopReq, monBuf := t.monBuf,
    monOvfPend := t.monOvfPend, mtmr := t.mtmr, monErr := t.monErr, monOvf := t.monOvf, reports := t.reports }

/-- Settles O52: each event's exact step is such a change, and `rx_fifo` was empty before it (R44(e)). -/
theorem monitorWritesOnlyItsOwn : Obligations.MonitorWritesOnlyItsOwn := by
  intro s t e rest hs hm he hr hi h
  suffices hch : RunChanges { s with inputs := rest } t from ⟨by rw [hch]; exact hs.monitorTakesAll hm, hch⟩
  obtain ⟨hp, -⟩ := hs.monitorExclusive hm
  obtain ⟨hen, -⟩ := step_listed_next hi h
  obtain ⟨ok, rfl⟩ | ⟨b, rfl⟩ | rfl | rfl := device_event_cases (by exact hp) he hr hen
  · cases (step_openAnswer hs hi).symm.trans h
    rfl
  · cases hq : s.monStopReq with
    | false => cases (step_rxByte_taken hs hm hi hq).symm.trans h; rfl
    | true => cases (step_rxByte_stops hs hm hi hq).symm.trans h; rfl
  · cases (readFailureStopsTheMonitor s rest hs hm hi).symm.trans h
    rfl
  · obtain ⟨hcount, hclose⟩ := silenceClosesTheFrame s rest hs hm hi
    obtain hlt | hgap := tick_before_or_at_gap hs
    · cases (hcount hlt).symm.trans h; rfl
    · cases (hclose hgap).symm.trans h; rfl

/-! ### Host accesses to a run with a stop requested -/

/-- What a host access may change while a run with a stop requested goes on: nothing of the run, of the transport, of the
connection or of `rx_fifo`. -/
abbrev StoppingChanges (s t : State) : Prop :=
  t = { s with
    accHi := t.accHi, accLo := t.accLo, txbuf := t.txbuf, txLen := t.txLen, err := t.err, rxOvr := t.rxOvr,
    monOvf := t.monOvf, monErr := t.monErr, bus := t.bus, held := t.held, openAnswer := t.openAnswer, draws := t.draws }

theorem StoppingChanges.trans {s t u : State} (h : StoppingChanges s t) (h' : StoppingChanges t u) :
    StoppingChanges s u := by
  unfold StoppingChanges at *
  rw [h']
  simp only
  rw [h]

/-- After such a change nothing is left to take. -/
theorem quiesce_stoppingChanges {s t : State} (hs : Inv s) (h : StoppingChanges s t) : StoppingChanges s (quiesce t) := by
  have hq : quiesce t = t := by
    rw [h]
    exact quiesce_of_same hs rfl rfl rfl rfl rfl
  rw [hq]
  exact h

/-- The commands that would begin or end something are rejected (R263 to R267), and MON_STOP asks for what is asked
already. -/
theorem exec_stopping (i : Instr) {s t : State} (h : exec i s = .next t) (hc : s.conn = .opened)
    (hm : s.monState = .running) (hq : s.monStopReq = true) : StoppingChanges s t := by
  cases i with
  | nop | clearFlags | crcInit | crcByte _ => cases h; rfl
  | openPort port => cases (execOpen_opened hc).symm.trans h; rfl
  | close => cases (execClose_running hm).symm.trans h; rfl
  | crcTx =>
    change execCrcTx s = .next t at h
    exact accepting_elim (P := StoppingChanges s) h (fun _ => rfl) (fun _ => rfl)
  | crcCheck =>
    obtain ⟨e, acc, d, rfl⟩ := execCrcCheck_next h
    rfl
  | send _ | transfer _ _ => cases (accepting_running hc hm).symm.trans h; rfl
  | receive _ => cases (execReceive_running hc hm).symm.trans h; rfl
  | monStart _ => cases (execMonStart_running hc hm).symm.trans h; rfl
  | monStop =>
    cases (execMonStop_running hm).symm.trans h
    rw [← hq]

theorem perform_host_stopping {s t : State} {e : Event} (h : perform e s = .next t) (he : isHostEvent e = true)
    (hs : Inv s) (hm : s.monState = .running) (hq : s.monStopReq = true) : StoppingChanges s t := by
  obtain ⟨l, rfl, -⟩ | ⟨agent, acc, l, o, ha, -, -, -⟩ := perform_host_cases h he
  · rfl
  · obtain ⟨m, len, b, d, rfl⟩ | ⟨_, _, v, u, -, -, hu, rfl⟩ := performAccess_cases ha
    · exact quiesce_stoppingChanges hs rfl
    · have taken : StoppingChanges s { s with held := l, openAnswer := o } := rfl
      refine quiesce_stoppingChanges hs (.trans (t := u) ?_ rfl)
      obtain ⟨i, -, hx⟩ | ⟨-, rfl⟩ := issueCommand_cases hu
      · exact taken.trans (exec_stopping i hx (hs.monitorExclusive hm).2 hm hq)
      · rfl

/-! ### The stop -/

/-- Settles O50: a host access and an announced answer leave the run as it is, a tick before the limit counts, and every
other event but Reset ends it. -/
theorem stopTakesEffectWithinTheGap : Obligations.StopTakesEffectWithinTheGap := by
  intro s t e rest hs hm hq hi h
  obtain ⟨hp, -⟩ := hs.monitorExclusive hm
  obtain ⟨hen, hperf⟩ := step_listed_next hi h
  cases hr : isReset e with
  | true =>
    cases e with
    | reset k =>
      cases hperf
      exact ⟨nofun, fun _ => .inr rfl, nofun⟩
    | _ => cases hr
  | false =>
    cases he : isHostEvent e with
    | true =>
      have hch : StoppingChanges { s with inputs := rest } t := perform_host_stopping hperf he { hs with } hm hq
      refine ⟨fun _ => ⟨by rw [hch]; exact hq, by rw [hch], ?_⟩, fun hn => absurd (by rw [hch]; exact hm) hn, ?_⟩
      · rintro rfl; cases he
      · rintro (⟨b, rfl⟩ | rfl | ⟨rfl, -⟩) <;> cases he
    | false =>
      obtain ⟨ok, rfl⟩ | ⟨b, rfl⟩ | rfl | rfl := device_event_cases (by exact hp) he hr hen
      · cases (step_openAnswer hs hi).symm.trans h
        simp [hm, hq]
      · cases (step_rxByte_stops hs hm hi hq).symm.trans h
        simp
      · cases (readFailureStopsTheMonitor s rest hs hm hi).symm.trans h
        simp
      · obtain ⟨hcount, hclose⟩ := silenceClosesTheFrame s rest hs hm hi
        obtain hlt | hgap := tick_before_or_at_gap hs
        · cases (hcount hlt).symm.trans h
          simp [hm, hq]
          omega
        · cases (hclose hgap).symm.trans h
          simp [hq]

end Sys2Proof.Laws
end

section
/-! Framing by silence (42_monitor.md R226, R228): the runs of bytes and ticks that make one frame and close it. -/

namespace Sys2Proof.Laws

open Sys2Proof.Machine

/-! ### A frame so far -/

/-- A monitor `s` with an empty frame that has since heard the bytes `bs`, the last of them `k` ticks ago (R216, R220). -/
abbrev hearing (bs : List Byte) (k : Nat) (o : Option Bool) (rest : List Event) (s : State) : State :=
  { s with
    inputs := rest, openAnswer := o, mtmr := k, monBuf := bs.take s.cfg.monBufMax,
    monOvfPend := decide (s.cfg.monBufMax < bs.length) }

section
variable {s : State} {bs : List Byte} {k : Nat} {o : Option Bool} {rest : List Event}

theorem hearing_nil (hb : s.monBuf = []) (hv : s.monOvfPend = false) :
    hearing [] s.mtmr s.openAnswer s.inputs s = s := by
  cases s
  simp_all

theorem inv_hearing (hs : Inv s) (hm : s.monState = .running) (hk : k < s.cfg.tGap) : Inv (hearing bs k o rest s) :=
  { hs with
    monitorTimer := hk
    monBufBound := List.length_take_le ..
    monitorAtRest := fun h => absurd hm h
    overflowFull := fun h => List.length_take_of_le (of_decide_eq_true h).le }

/-- One more byte goes to the frame while there is room. -/
theorem take_concat_if_room (b : Byte) (m : Nat) :
    (if (bs.take m).length < m then bs.take m ++ [b] else bs.take m) = (bs ++ [b]).take m := by
  by_cases hroom : bs.length < m
  · rw [List.take_of_length_le hroom.le, if_pos hroom, List.take_of_length_le (by simpa using hroom)]
  · rw [if_neg (by rw [List.length_take]; omega), List.take_append_of_le_length (by omega)]

/-- Without room it marks the frame over-length. -/
theorem overLength_concat (b : Byte) (m : Nat) :
    (if (bs.take m).length < m then decide (m < bs.length) else true) = decide (m < (bs ++ [b]).length) := by
  rw [List.length_take, List.length_append, List.length_singleton]
  by_cases hroom : bs.length < m
  · rw [if_pos (by omega), decide_eq_false (by omega), decide_eq_false (by omega)]
  · rw [if_neg (by omega), decide_eq_true (by omega)]

theorem step_hearing_byte {b : Byte} (hs : Inv s) (hm : s.monState = .running) (hq : s.monStopReq = false)
    (hk : k < s.cfg.tGap) :
    step (hearing bs k o (.rxByte b :: rest) s) = .next (hearing (bs ++ [b]) 0 none rest s) := by
  rw [step_rxByte_taken (inv_hearing hs hm hk) hm rfl hq]
  dsimp only
  rw [take_concat_if_room, overLength_concat]

theorem step_hearing_tick (hs : Inv s) (hm : s.monState = .running) (hk : k + 1 < s.cfg.tGap) :
    step (hearing bs k none (.tick :: rest) s) = .next (hearing bs (k + 1) none rest s) := by
  obtain ⟨hcount, -⟩ := silenceClosesTheFrame (hearing bs k none (.tick :: rest) s) rest
    (inv_hearing hs hm (Nat.lt_of_succ_lt hk)) hm rfl
  rw [hcount hk]

/-- The T_GAP-th tick closes the frame: discarded if over-length, reported if it passes the filter (R218, R220). -/
theorem step_hearing_closes (hs : Inv s) (hm : s.monState = .running) (hq : s.monStopReq = false) (hb : s.monBuf = [])
    (hbs : bs ≠ []) (hk : k + 1 = s.cfg.tGap) :
    step (hearing bs k none (.tick :: rest) s) = .next
      { s with
        inputs := rest, openAnswer := none, mtmr := 0, monOvf := s.monOvf || decide (s.cfg.monBufMax < bs.length),
        reports :=
          if bs.length ≤ s.cfg.monBufMax ∧ (s.monFilter = 0 ∨ bs.head? = some s.monFilter)
          then s.reports ++ [.monFrame bs] else s.reports } := by
  obtain ⟨-, hclose⟩ := silenceClosesTheFrame (hearing bs k none (.tick :: rest) s) rest
    (inv_hearing hs hm (by omega)) hm rfl
  have hv := overflow_none_of_empty hs hb
  have htake : bs.take s.cfg.monBufMax ≠ [] := by simp [hbs, (monBufMax_pos hs.config).ne']
  rw [hclose hk]
  by_cases hlong : s.cfg.monBufMax < bs.length
  · simp [hlong, hq, hm, hb, hv, htake]
  · have hall : bs.take s.cfg.monBufMax = bs := List.take_of_length_le (by omega)
    simp [Nat.not_lt.mp hlong, hq, hm, hb, hv, hall, hbs]

/-- Ticks before the limit only count. -/
theorem run_hearing_ticks (hs : Inv s) (hm : s.monState = .running) (j n : Nat) : ∀ k, k + j < s.cfg.tGap →
    Host.Core.run Sys2Proof.core (j + n) (hearing bs k none (List.replicate j .tick ++ rest) s) =
      Host.Core.run Sys2Proof.core n (hearing bs (k + j) none rest s) := by
  induction j with
  | zero => intro k _; rw [Nat.zero_add]; rfl
  | succ j ih =>
    intro k hk
    rw [Nat.add_right_comm, List.replicate_succ, List.cons_append,
      run_succ _ (step_hearing_tick hs hm (by omega)), ih (k + 1) (by omega), Nat.add_right_comm k, Nat.add_assoc]

end

/-- Bytes with fewer than T_GAP ticks between them are one frame (R226). -/
theorem run_hearing_bytes {s : State} {b : Byte} {rest : List Event} (hs : Inv s) (hm : s.monState = .running)
    (hq : s.monStopReq = false) (n : Nat) (spaced : List (Byte × Nat)) : (∀ p ∈ spaced, p.2 < s.cfg.tGap) →
    ∀ bs k o, k < s.cfg.tGap →
    Host.Core.run Sys2Proof.core ((spaced.map fun p => p.2 + 1).sum + 1 + n)
        (hearing bs k o ((spaced.flatMap fun p => .rxByte p.1 :: List.replicate p.2 .tick) ++ .rxByte b :: rest) s) =
      Host.Core.run Sys2Proof.core n (hearing (bs ++ (spaced.map Prod.fst ++ [b])) 0 none rest s) := by
  induction spaced with
  | nil =>
    intro _ bs k o hk
    simp only [List.map_nil, List.sum_nil, List.flatMap_nil, List.nil_append]
    rw [Nat.zero_add, Nat.add_comm 1 n, run_succ _ (step_hearing_byte hs hm hq hk)]
  | cons p tail ih =>
    intro hgaps bs k o hk
    obtain ⟨c, j⟩ := p
    obtain ⟨hj, htail⟩ := List.forall_mem_cons.mp hgaps
    have hsteps : (((c, j) :: tail).map fun p => p.2 + 1).sum + 1 + n =
        j + ((tail.map fun p => p.2 + 1).sum + 1 + n) + 1 := by
      simp only [List.map_cons, List.sum_cons]
      omega
    rw [hsteps, List.flatMap_cons, List.append_assoc, List.cons_append, run_succ _ (step_hearing_byte hs hm hq hk),
      run_hearing_ticks hs hm j _ 0 (by omega), ih htail _ _ _ (by omega), List.append_assoc]
    rfl

/-- Settles O51: the bytes make one frame, one tick short of T_GAP only counts, and the last closes it. -/
theorem silenceGapFraming : Obligations.SilenceGapFraming := by
  intro s spaced b rest hs hm hq hb hgaps hi frame
  obtain ⟨g, hg⟩ : ∃ g, s.cfg.tGap = g + 1 := Nat.exists_eq_add_one.mpr (Nat.zero_lt_of_lt hs.monitorTimer)
  have hbytes := run_hearing_bytes (b := b) (rest := List.replicate s.cfg.tGap .tick ++ rest) hs hm hq s.cfg.tGap spaced
    hgaps [] s.mtmr s.openAnswer hs.monitorTimer
  rw [← hi, hearing_nil hb (overflow_none_of_empty hs hb), List.nil_append] at hbytes
  rw [hbytes, hg, List.replicate_succ', List.append_assoc, run_hearing_ticks hs hm g 1 0 (by omega)]
  exact run_succ 0 (step_hearing_closes hs hm hq hb (by simp) (by omega))

end Sys2Proof.Laws
end

section
/-! The control commands and the text of a trace event (43_control.md R240 to R247): no command stops the machine, a CMD
write runs the command of its word, one pass of quiescence is enough, and the line of a trace event. -/

namespace Sys2Proof.Laws

open Sys2Proof.Machine

/-! ### Commands (R240 to R242) -/

/-- Settles O16: the two opcodes have no operand, and NOP has no effect. -/
theorem nopAndClearFlags : Obligations.NopAndClearFlags :=
  ⟨fun _ h => decode_of_operandsIn h trivial, fun _ h => decode_of_operandsIn h trivial, fun _ => ⟨rfl, rfl⟩⟩

/-- A command with checks is rejected or performed, and goes on either way (R262, R272). -/
theorem accepting_completes (checks : List (Bool × ErrCode)) (f : State → State) (s : State) :
    ∃ t, accepting checks f s = .next t := by
  obtain ⟨_, -, h⟩ | ⟨-, h⟩ := accepting_cases checks f s <;> exact ⟨_, h⟩

theorem execCrcCheck_completes (s : State) : ∃ t, execCrcCheck s = .next t := by
  obtain hlt | hle := Nat.lt_or_ge s.rxLen.toNat 2
  · exact ⟨_, execCrcCheck_short hlt⟩
  · obtain ⟨_, _, hxy⟩ := checkTail_eq_pair s
    exact ⟨_, execCrcCheck_compares hle hxy⟩

theorem exec_completes (i : Instr) (s : State) : ∃ t, exec i s = .next t := by
  cases i with
  | nop | clearFlags | crcInit | crcByte _ | monStop => exact ⟨_, rfl⟩
  | openPort _ | close | crcTx | send _ | receive _ | transfer _ _ | monStart _ =>
    dsimp only [exec]
    exact accepting_completes ..
  | crcCheck => exact execCrcCheck_completes s

/-- Settles O24: a word decodes to a command, and every command completes, or is rejected as reserved. -/
theorem everyCommandCompletes : Obligations.EveryCommandCompletes := by
  refine ⟨exec_completes, fun w s => ?_⟩
  cases hd : decode w with
  | cmd i => rw [issueCommand_cmd hd]; exact exec_completes i s
  | illegal op => exact ⟨_, issueCommand_illegal hd s⟩

/-! ### CMD writes (R242) -/

/-- A CMD write in the idle block, by an agent with nothing held, performs, and runs the command of its word. -/
theorem step_cmd {s : State} {agent : Nat} {w : Word} {i : Instr} {rest : List Event} (hw : s.cfg.wf = true)
    (hp : s.phase = .idle) (hh : isHeld agent s.held = false)
    (hi : s.inputs = .host agent (.write 4 s.cfg.base w) :: rest) (hd : decode w = .cmd i) :
    step s = andThen (exec i { s with inputs := rest }) (fun t => quiesce (answer agent .done t)) := by
  have ho : (offsetOf s.cfg s.cfg.base).isSome = true := by rw [offsetOf_base]; rfl
  rw [step_host s agent _ rest hw hi ho hh (not_holds_of_idle _ s hp), ← issueCommand_cmd hd]
  exact performAccess_cmd agent w { s with inputs := rest }

theorem decode_of_decodeTableWord {nbits w : Nat} {i : Instr} (h : decodeTableWord nbits w = some i) :
    decode (tableWord nbits w) = .cmd i := by
  unfold decodeTableWord at h
  cases hd : decode (tableWord nbits w) with
  | cmd j => rw [hd] at h; cases h; rfl
  | illegal op => rw [hd] at h; cases h

/-- Settles O28: the word that `withFetchWord` places is a CMD write of an agent with nothing held. -/
theorem stepRunsTheDecodedCommand : Obligations.StepRunsTheDecodedCommand :=
  ⟨fun _ _ _ _ _ => step_cmd, fun s nbits w _ hw hp hd =>
    step_cmd (s := s.withFetchWord nbits w) hw hp (freshAgent_not_held s.held _ le_rfl) rfl
      (decode_of_decodeTableWord hd)⟩

/-! ### Quiescence (R244) -/

/-- The transport's loop has nothing to do: it waits for bytes and none is there, or its count is already past (no
reachable state). -/
def TransportWaits (s : State) : Prop :=
  s.phase = .rFixed →
    (s.rxLen.toNat < s.rxExpect.toNat ∧ s.rxFifo = []) ∨ s.rxExpect.toNat < s.rxLen.toNat

theorem quiesceTransport_of_waits {s : State} (h : TransportWaits s) : quiesceTransport s = s := by
  by_cases hp : s.phase = .rFixed
  · obtain ⟨hlt, hf⟩ | hpast := h hp
    · rw [quiesceTransport, if_pos hp, hf, takeFixed, ← hf]
      exact if_neg fun he => hlt.ne (congrArg BitVec.toNat he)
    · exact quiesceTransport_past s hp hpast
  · exact quiesceTransport_of_ne s hp

/-- The transport's loop leaves it nothing to do: too few bytes leave it waiting, and enough end the receive (R190). -/
theorem quiesceTransport_waits (s : State) : TransportWaits (quiesceTransport s) := by
  by_cases hp : s.phase = .rFixed
  · have hb := s.rxExpect.isLt
    obtain hpast | hle := Nat.lt_or_ge s.rxExpect.toNat s.rxLen.toNat
    · rw [quiesceTransport_past s hp hpast]
      exact fun _ => .inr hpast
    · obtain hshort | hfull := Nat.lt_or_ge s.rxFifo.length (s.rxExpect.toNat - s.rxLen.toNat)
      · rw [quiesceTransport_short s hp hshort]
        refine fun _ => .inl ⟨?_, rfl⟩
        simp only [BitVec.toNat_add, BitVec.toNat_ofNat]
        omega
      · rw [quiesceTransport_full s hp hle hfull]
        intro h
        rw [finishRx_phase] at h
        cases h
  · rw [quiesceTransport_of_ne s hp]
    exact fun h => absurd h hp

/-- The monitor's loop leaves the transport's with nothing to do. -/
theorem quiesceMonitor_waits {s : State} (h : TransportWaits s) : TransportWaits (quiesceMonitor s) := by
  obtain hf | hf := eq_or_ne s.rxFifo []
  · rwa [quiesceMonitor_of_empty s hf]
  · rw [quiesceMonitor_changes s]
    exact fun hp => .inr ((h hp).resolve_left fun hw => hf hw.2)

theorem quiesceMonitor_idem (s : State) : quiesceMonitor (quiesceMonitor s) = quiesceMonitor s := by
  by_cases hr : (quiesceMonitor s).monState = .running
  · exact quiesceMonitor_of_empty _ (quiesceMonitor_running s hr)
  · exact quiesceMonitor_of_ne _ hr

/-- Settles O53: after one pass neither loop has anything to do, and the monitor's gives the transport's nothing. -/
theorem quiescenceIsStable : Obligations.QuiescenceIsStable := by
  intro s
  have hwaits : TransportWaits (quiesce s) := quiesceMonitor_waits (quiesceTransport_waits s)
  change quiesceMonitor (quiesceTransport (quiesce s)) = quiesce s
  rw [quiesceTransport_of_waits hwaits]
  exact quiesceMonitor_idem (quiesceTransport s)

/-! ### The line of a trace event (R247) -/

theorem charOfNat_eq_digitChar : ∀ n < 10, Char.ofNat (48 + n) = Nat.digitChar n := by decide

/-- With enough digits allowed the model's decimal form is the decimal numeral. -/
theorem decimal_eq_toDigits (k : Nat) : ∀ n, n < 10 ^ (k + 1) → decimal (k + 1) n = Nat.toDigits 10 n := by
  induction k with
  | zero =>
    intro n hn
    rw [zero_add, pow_one] at hn
    rw [decimal, if_pos hn, Nat.mod_eq_of_lt hn, Nat.toDigits_of_lt_base hn, charOfNat_eq_digitChar n hn]
    rfl
  | succ k ih =>
    intro n hn
    rw [decimal, charOfNat_eq_digitChar _ (Nat.mod_lt n (by decide))]
    obtain hlt | hge := Nat.lt_or_ge n 10
    · rw [if_pos hlt, Nat.mod_eq_of_lt hlt, Nat.toDigits_of_lt_base hlt]
      rfl
    · rw [if_neg (Nat.not_lt.mpr hge), ih _ (Nat.div_lt_of_lt_mul (by rwa [pow_succ'] at hn)),
        Nat.toDigits_of_base_le (by decide) hge]

/-- The digits of R247. -/
def hexDigits : List Char := ['0', '1', '2', '3', '4', '5', '6', '7', '8', '9', 'A', 'B', 'C', 'D', 'E', 'F']

theorem hexDigit_eq : ∀ n < 16, hexDigit n = hexDigits.getD n ' ' := by decide

theorem hexByte_eq (b : Byte) : hexByte b = [hexDigits.getD (b.toNat / 16) ' ', hexDigits.getD (b.toNat % 16) ' '] := by
  have hb := b.isLt
  rw [hexByte, hexDigit_eq _ (by omega), hexDigit_eq _ (by omega)]

theorem hexBytes_eq_intercalate (bs : List Byte) : hexBytes bs = List.intercalate [' '] (bs.map hexByte) := by
  induction bs with
  | nil => rfl
  | cons b bs ih =>
    cases bs with
    | nil => simp [hexBytes]
    | cons c cs => simp [hexBytes, ih]

/-- Settles O60: 258 is below the four digits `decimal` allows, and each byte's digits are those of the table. -/
theorem traceLineIsTheFormat : Obligations.TraceLineIsTheFormat := by
  intro s hs
  have hlen : decimal 4 s.length = Nat.toDigits 10 s.length := decimal_eq_toDigits 3 _ (by omega)
  have hhex := hexBytes_eq_intercalate s
  rw [funext hexByte_eq] at hhex
  simp only [TraceEvent.line, TraceEvent.parts, hlen, hhex]
  exact ⟨rfl, rfl⟩

end Sys2Proof.Laws
end

section
/-! Which commands are rejected (60_exceptions.md R262 to R267, R272), and which accesses wait (R281). -/

namespace Sys2Proof.Laws

open Sys2Proof.Machine

/-! ### Rejection (R262, R272) -/

/-- R262's one order for every command, as a list of checks. -/
theorem acceptanceError_cmd (i : Instr) (s : State) :
    acceptanceError (.cmd i) s =
      firstError [(needsOpen i && !isOpen s, .notOpen), (conflictsWithMonitor i && monRunning s, .modeConflict),
        (alreadyThere i s, .badState), (badArgument i s, .invalidArgument)] := by
  have hclosed : (!isOpen s) = decide (s.conn = .closed) := by cases hc : s.conn <;> simp [isOpen, hc]
  rw [hclosed]
  rfl

/-- Each command's own checks are those of the one order that it can fail. -/
theorem exec_rejected {i : Instr} {s : State} {e : ErrCode} (h : acceptanceError (.cmd i) s = some e) :
    exec i s = .next (setErr e s) := by
  rw [acceptanceError_cmd] at h
  cases i with
  | nop | clearFlags | crcInit | crcByte _ | crcCheck | monStop => cases h
  | openPort _ | close | crcTx | send _ | receive _ | transfer _ _ | monStart _ =>
    dsimp only [exec]
    exact accepting_fail _ s h

/-- Settles O23: a reserved opcode is rejected before any other check, and a command by the first it fails. -/
theorem firstFailingCheckRejects : Obligations.FirstFailingCheckRejects := by
  intro w s e h
  cases hd : decode w with
  | illegal op =>
    rw [hd] at h
    cases h
    exact issueCommand_illegal hd s
  | cmd i =>
    rw [hd] at h
    rw [issueCommand_cmd hd]
    exact exec_rejected h

/-! ### Holding (R281) -/

/-- Settles O35: a CMD write to the busy block is one of the accesses that wait. -/
theorem cmdWriteHoldsWhileBusy : Obligations.CmdWriteHoldsWhileBusy := by
  refine ⟨fun s agent w rest hw hp hi => ?_, holds_eq⟩
  have hwaits : holds (.write 4 s.cfg.base w) s = true := (holds_eq _ s).mpr ⟨hp, w, rfl⟩
  exact step_host_waits s agent _ rest hw hi (by rw [Access.addr, offsetOf_base]; rfl) (.inr hwaits)

end Sys2Proof.Laws
end

section
/-! The operating modes (60_exceptions.md R280). An event of the device or the time base begins nothing (`BeginsNothing`),
and a command makes a move of the table (`CommandMove`), which quiescence may take back. -/

namespace Sys2Proof.Laws

open Sys2Proof.Machine

/-! ### The mode of a state -/

theorem modeOf_transaction_iff {s : State} : modeOf s = .transaction ↔ s.phase ≠ .idle := by
  unfold modeOf
  split_ifs <;> simp_all

theorem modeOf_monitoring_iff {s : State} : modeOf s = .monitoring ↔ s.phase = .idle ∧ s.monState = .running := by
  unfold modeOf
  split_ifs <;> simp_all

theorem modeOf_ready_iff {s : State} :
    modeOf s = .ready ↔ s.phase = .idle ∧ s.monState ≠ .running ∧ s.conn = .opened := by
  unfold modeOf
  split_ifs <;> simp_all

theorem modeOf_closed_iff {s : State} :
    modeOf s = .closed ↔ s.phase = .idle ∧ s.monState ≠ .running ∧ s.conn = .closed := by
  rw [← conn_not_opened]
  unfold modeOf
  split_ifs <;> simp_all

/-- The mode reads these three fields only. -/
theorem modeOf_congr {s t : State} (hp : t.phase = s.phase) (hm : t.monState = s.monState) (hc : t.conn = s.conn) :
    modeOf t = modeOf s := by
  rw [modeOf, modeOf, busy, busy, monRunning, monRunning, isOpen, isOpen, hp, hm, hc]

theorem modeOf_quiesce_of_same {s t : State} (hs : Inv s) (hp : t.phase = s.phase) (hl : t.rxLen = s.rxLen)
    (hx : t.rxExpect = s.rxExpect) (hf : t.rxFifo = s.rxFifo) (hm : t.monState = s.monState) (hc : t.conn = s.conn) :
    modeOf (quiesce t) = modeOf s := by
  rw [quiesce_of_same hs hp hl hx hf hm, modeOf_congr hp hm hc]

/-! ### Events that begin nothing -/

/-- No transaction and no run begins: an idle transport stays idle, and a run goes on or stops. -/
structure BeginsNothing (s t : State) : Prop where
  transport : s.phase = .idle → t.phase = .idle
  monitor   : t.monState = s.monState ∨ (s.monState = .running ∧ t.monState = .stopped)

theorem BeginsNothing.trans {s t u : State} (h : BeginsNothing s t) (h' : BeginsNothing t u) : BeginsNothing s u := by
  refine ⟨h'.transport ∘ h.transport, ?_⟩
  obtain hu | ⟨ht, hu⟩ := h'.monitor
  · rw [hu]; exact h.monitor
  · obtain hs | ⟨-, hs⟩ := h.monitor
    · exact .inr ⟨hs ▸ ht, hu⟩
    · cases hs.symm.trans ht

theorem BeginsNothing.of_same {s t : State} (hp : t.phase = s.phase) (hm : t.monState = s.monState) :
    BeginsNothing s t := ⟨hp.trans, .inl hm⟩

theorem BeginsNothing.after_same {s t u : State} (h : BeginsNothing t u) (hp : t.phase = s.phase)
    (hm : t.monState = s.monState) : BeginsNothing s u := (BeginsNothing.of_same hp hm).trans h

theorem BeginsNothing.not_running {s t : State} (h : BeginsNothing s t) (hm : s.monState ≠ .running) :
    t.monState ≠ .running := by
  obtain ht | ⟨hs, -⟩ := h.monitor
  · rwa [ht]
  · exact absurd hs hm

theorem stopRun_beginsNothing {s : State} (hm : s.monState = .running) : BeginsNothing s (stopRun s) :=
  ⟨id, .inr ⟨hm, rfl⟩⟩

theorem nextAttempt_beginsNothing {s : State} (hm : s.monState = .running) : BeginsNothing s (nextAttempt s) := by
  unfold nextAttempt
  split
  · exact stopRun_beginsNothing hm
  · exact .of_same rfl rfl

theorem monByte_beginsNothing (b : Byte) {s : State} (hm : s.monState = .running) : BeginsNothing s (monByte b s) := by
  unfold monByte
  split
  · exact (nextAttempt_beginsNothing (s := { s with monBuf := s.monBuf ++ [b] }) hm).after_same rfl rfl
  · exact (nextAttempt_beginsNothing (s := { s with monOvfPend := true }) hm).after_same rfl rfl

theorem takeMonitor_beginsNothing (bs : List Byte) : ∀ s : State, BeginsNothing s (takeMonitor bs s) := by
  induction bs with
  | nil => exact fun s => .of_same rfl rfl
  | cons b bs ih =>
    intro s
    unfold takeMonitor
    split
    · rename_i hr
      exact (monByte_beginsNothing b ((monRunning_eq s).mp hr)).trans (ih _)
    · exact .of_same rfl rfl

theorem quiesce_beginsNothing (s : State) : BeginsNothing s (quiesce s) := by
  have transport : BeginsNothing s (quiesceTransport s) := by
    refine ⟨fun hp => ?_, .inl (by rw [quiesceTransport_changes s])⟩
    rw [quiesceTransport_of_ne s (by rw [hp]; decide), hp]
  have monitor : BeginsNothing (quiesceTransport s) (quiesce s) := by
    unfold quiesce quiesceMonitor
    split
    · exact takeMonitor_beginsNothing ..
    · exact .of_same rfl rfl
  exact transport.trans monitor

theorem rxErrorTransport_beginsNothing (s : State) : BeginsNothing s (rxErrorTransport s) := by
  unfold rxErrorTransport
  split
  · exact ⟨fun _ => finishRx_phase .., .inl (finishRx_monState ..)⟩
  · exact .of_same rfl rfl

theorem rxErrorMonitor_beginsNothing (s : State) : BeginsNothing s (rxErrorMonitor s) := by
  by_cases hm : s.monState = .running
  · rw [rxErrorMonitor_running hm]
    exact ⟨id, .inr ⟨hm, rfl⟩⟩
  · rw [rxErrorMonitor_of_ne hm]
    exact .of_same rfl rfl

theorem tickTransport_beginsNothing (s : State) : BeginsNothing s (tickTransport s) :=
  ⟨fun hp => by rw [tickTransport_untimed (.inl hp), hp], .inl (tickTransport_monState s)⟩

theorem tickMonitor_beginsNothing (s : State) : BeginsNothing s (tickMonitor s) := by
  unfold tickMonitor
  split
  · rename_i hr
    dsimp only
    split
    · refine (nextAttempt_beginsNothing ?_).after_same (closeFrame_phase _) (closeFrame_monState _)
      rw [closeFrame_monState]
      exact (monRunning_eq s).mp hr
    · exact .of_same rfl rfl
  · exact .of_same rfl rfl

/-- The events of the device and the time base begin neither a transaction nor a run. -/
theorem perform_device_beginsNothing {e : Event} {s t : State} (h : perform e s = .next t) (hen : enabled e s = true)
    (he : isHostEvent e = false) (hr : isReset e = false) : BeginsNothing s t := by
  cases e with
  | host _ _ | resume _ => cases he
  | reset _ => cases hr
  | openAnswer ok => cases h; exact (quiesce_beginsNothing _).after_same rfl rfl
  | rxByte b =>
    cases h
    exact (quiesce_beginsNothing _).after_same (rxByte_phase b _) (rxByte_monState b _)
  | rxError =>
    cases h
    have ended := (rxErrorTransport_beginsNothing { s with openAnswer := none }).trans (rxErrorMonitor_beginsNothing _)
    exact (ended.trans (quiesce_beginsNothing _)).after_same rfl rfl
  | writeOk =>
    cases h
    have hp : s.phase = .sWrite := of_decide_eq_true hen
    have written : BeginsNothing s (writeOk { s with openAnswer := none }) :=
      ⟨fun hi => (nomatch hp.symm.trans hi), .inl rfl⟩
    exact written.trans (quiesce_beginsNothing _)
  | writeFail k =>
    cases h
    have ended : BeginsNothing s (writeFail k { s with openAnswer := none }) := ⟨fun _ => rfl, .inl rfl⟩
    exact ended.trans (quiesce_beginsNothing _)
  | tick =>
    cases h
    have ticked := (tickTransport_beginsNothing { s with openAnswer := none }).trans (tickMonitor_beginsNothing _)
    exact (ticked.trans (quiesce_beginsNothing _)).after_same rfl rfl

/-! ### Commands -/

/-- SEND, RECEIVE or TRANSFER (R280). -/
def BeginsTransaction (i : Instr) : Prop :=
  (∃ a, i = .send a) ∨ (∃ n, i = .receive n) ∨ ∃ a n, i = .transfer a n

/-- What a command does, before quiescence, to the fields that make the mode. -/
inductive ModeEffect (i : Instr) (s t : State) : Prop
  | keeps (h : (t.phase, t.monState, t.conn, t.rxFifo) = (s.phase, s.monState, s.conn, s.rxFifo))
  | connects (hm : s.monState ≠ .running) (h : (t.phase, t.monState) = (s.phase, s.monState))
  | transacts (hi : BeginsTransaction i) (hm : s.monState ≠ .running) (hc : s.conn = .opened)
      (h : (t.monState, t.conn) = (s.monState, s.conn))
  | monitors (hi : ∃ f, i = .monStart f) (hm : s.monState ≠ .running) (hc : s.conn = .opened)
      (h : (t.phase, t.conn) = (s.phase, s.conn))

/-- What the first two checks of SEND, RECEIVE, TRANSFER and MON_START ask for. -/
theorem ready_of_checks {s : State} {e e' : ErrCode} {l : List (Bool × ErrCode)}
    (h : ∀ c ∈ (!isOpen s, e) :: (monRunning s, e') :: l, c.1 = false) : s.conn = .opened ∧ s.monState ≠ .running :=
  ⟨(isOpen_check s).mp (h _ (.head _)), (monRunning_check s).mp (h _ (.tail _ (.head _)))⟩

theorem exec_modeEffect (i : Instr) {s t : State} (h : exec i s = .next t)
    (hopen : s.monState = .running → s.conn = .opened) : ModeEffect i s t := by
  dsimp only [exec] at h
  cases i with
  | nop | clearFlags | crcInit | crcByte _ | monStop => cases h; exact .keeps rfl
  | openPort port =>
    cases hc : s.conn with
    | opened => cases (execOpen_opened hc).symm.trans h; exact .keeps rfl
    | closed =>
      cases (execOpen_closed hc).symm.trans h
      exact .connects (fun hm => nomatch hc.symm.trans (hopen hm)) rfl
  | close =>
    by_cases hm : s.monState = .running
    · cases (execClose_running hm).symm.trans h; exact .keeps rfl
    · cases (execClose_accepted hm).symm.trans h
      rw [closeDevice_eq]
      exact .connects hm rfl
  | crcTx => exact accepting_elim h (fun _ => .keeps rfl) fun _ => .keeps rfl
  | crcCheck =>
    obtain ⟨e, acc, d, rfl⟩ := execCrcCheck_next h
    exact .keeps rfl
  | send a =>
    refine accepting_elim h (fun _ => .keeps rfl) fun hall => ?_
    obtain ⟨hc, hm⟩ := ready_of_checks hall
    exact .transacts (.inl ⟨a, rfl⟩) hm hc (by rw [beginSend_eq])
  | receive n =>
    refine accepting_elim h (fun _ => .keeps rfl) fun hall => ?_
    obtain ⟨hc, hm⟩ := ready_of_checks hall
    exact .transacts (.inr (.inl ⟨n, rfl⟩)) hm hc rfl
  | transfer a n =>
    refine accepting_elim h (fun _ => .keeps rfl) fun hall => ?_
    obtain ⟨hc, hm⟩ := ready_of_checks hall
    exact .transacts (.inr (.inr ⟨a, n, rfl⟩)) hm hc (by rw [beginSend_eq])
  | monStart f =>
    refine accepting_elim h (fun _ => .keeps rfl) fun hall => ?_
    obtain ⟨hc, hm⟩ := ready_of_checks hall
    exact .monitors ⟨f, rfl⟩ hm hc rfl

/-- How a command enters and leaves the modes, by the columns of R280's table. -/
inductive CommandMove (i : Instr) : Mode → Mode → Prop
  | opens (hi : ∃ p, i = .openPort p) : CommandMove i .closed .ready
  | closes (hi : i = .close) : CommandMove i .ready .closed
  | transacts (hi : BeginsTransaction i) : CommandMove i .ready .transaction
  | monitors (hi : ∃ f, i = .monStart f) : CommandMove i .ready .monitoring

/-- Between commands and runs the mode is that of the connection, which OPEN and CLOSE alone change (R23). -/
theorem ConnAfter.moves {i : Instr} {s t : State} (h : ConnAfter i s t) (hp : s.phase = .idle)
    (hm : s.monState ≠ .running) (hpt : t.phase = .idle) (hmt : t.monState ≠ .running) :
    modeOf t = modeOf s ∨ CommandMove i (modeOf s) (modeOf t) := by
  cases hcs : s.conn with
  | closed =>
    rw [modeOf_closed_iff.mpr ⟨hp, hm, hcs⟩]
    cases hct : t.conn with
    | closed => exact .inl (modeOf_closed_iff.mpr ⟨hpt, hmt, hct⟩)
    | opened =>
      rw [modeOf_ready_iff.mpr ⟨hpt, hmt, hct⟩]
      exact .inr (.opens (h.opens hcs hct))
  | opened =>
    rw [modeOf_ready_iff.mpr ⟨hp, hm, hcs⟩]
    cases hct : t.conn with
    | closed =>
      rw [modeOf_closed_iff.mpr ⟨hpt, hmt, hct⟩]
      exact .inr (.closes (h.closes hcs hct))
    | opened => exact .inl (modeOf_ready_iff.mpr ⟨hpt, hmt, hct⟩)

/-- A command of the idle block, and the quiescence after it, keeps the mode or makes a move of the table. -/
theorem exec_moves {i : Instr} {agent : Nat} {s u : State} (h : exec i s = .next u) (hp : s.phase = .idle)
    (hrun : s.monState = .running → s.conn = .opened ∧ s.rxFifo = []) :
    let t := quiesce (answer agent .done u)
    modeOf t = modeOf s ∨ CommandMove i (modeOf s) (modeOf t) := by
  intro t
  have ht : BeginsNothing u t := (quiesce_beginsNothing (answer agent .done u)).after_same rfl rfl
  have hconn : t.conn = u.conn := quiesce_conn _
  cases exec_modeEffect i h fun hm => (hrun hm).1 with
  | keeps heq =>
    simp only [Prod.mk.injEq] at heq
    obtain ⟨hpu, hmu, hcu, hfu⟩ := heq
    have hquiet : t = answer agent .done u := by
      refine quiesce_of_quiet _ ⟨fun hf => ?_, fun hm => hfu.trans (hrun (hmu.symm.trans hm)).2⟩
      cases (hf.symm.trans hpu).trans hp
    rw [hquiet]
    exact .inl (modeOf_congr hpu hmu hcu)
  | connects hm heq =>
    simp only [Prod.mk.injEq] at heq
    obtain ⟨hpu, hmu⟩ := heq
    have hafter : ConnAfter i s t := by rw [ConnAfter, hconn]; exact (exec_effect i h).conn
    exact hafter.moves hp hm (ht.transport (hpu.trans hp)) (ht.not_running (hmu ▸ hm))
  | transacts hi hm hc heq =>
    simp only [Prod.mk.injEq] at heq
    obtain ⟨hmu, hcu⟩ := heq
    rw [modeOf_ready_iff.mpr ⟨hp, hm, hc⟩]
    by_cases hpt : t.phase = .idle
    · exact .inl (modeOf_ready_iff.mpr ⟨hpt, ht.not_running (hmu ▸ hm), hconn.trans (hcu.trans hc)⟩)
    · rw [modeOf_transaction_iff.mpr hpt]
      exact .inr (.transacts hi)
  | monitors hi hm hc heq =>
    simp only [Prod.mk.injEq] at heq
    obtain ⟨hpu, hcu⟩ := heq
    rw [modeOf_ready_iff.mpr ⟨hp, hm, hc⟩]
    have hpt : t.phase = .idle := ht.transport (hpu.trans hp)
    by_cases hmt : t.monState = .running
    · rw [modeOf_monitoring_iff.mpr ⟨hpt, hmt⟩]
      exact .inr (.monitors hi)
    · exact .inl (modeOf_ready_iff.mpr ⟨hpt, hmt, hconn.trans (hcu.trans hc)⟩)

/-- What a host event does to the mode: the command it runs makes a move of the table, or the mode stays. -/
theorem perform_host_moves {e : Event} {s t : State} (h : perform e s = .next t) (he : isHostEvent e = true)
    (hs : Inv s) : modeOf t = modeOf s ∨ ∃ i, commandOf e s = some i ∧ CommandMove i (modeOf s) (modeOf t) := by
  by_cases hp : s.phase = .idle
  · obtain ⟨l, rfl, -⟩ | ⟨agent, acc, l, o, ha, hacc, -, -⟩ := perform_host_cases h he
    · exact .inl rfl
    · obtain ⟨m, len, b, d, rfl⟩ | ⟨width, addr, v, u, rfl, hc, hu, rfl⟩ := performAccess_cases ha
      · exact .inl (modeOf_quiesce_of_same hs rfl rfl rfl rfl rfl rfl)
      · obtain ⟨i, hd, hx⟩ | ⟨-, rfl⟩ := issueCommand_cases hu
        · have hi : commandOf e s = some i := by
            rw [commandOf, hacc, Option.bind_some, accessCommand, if_pos hc, hd]
          have hrun := fun hm => And.intro (hs.monitorExclusive hm).2 (hs.monitorTakesAll hm)
          exact (exec_moves (agent := agent) hx hp hrun).imp_right fun hmove => ⟨i, hi, hmove⟩
        · exact .inl (modeOf_quiesce_of_same hs rfl rfl rfl rfl rfl rfl)
  · rw [perform_host_busy h he hs hp]
    exact .inl rfl

/-! ### The table -/

/-- The moves of the table that no command makes. -/
theorem BeginsNothing.moves {s t : State} (h : BeginsNothing s t) (hc : t.conn = s.conn) (hs : Inv s) :
    (modeOf s = .closed → modeOf t = .closed) ∧ (modeOf s = .ready → modeOf t = .ready) ∧
      (modeOf s = .transaction → modeOf t = .transaction ∨ modeOf t = .ready) ∧
      (modeOf s = .monitoring → modeOf t = .monitoring ∨ (modeOf t = .ready ∧ t.monState = .stopped)) := by
  refine ⟨fun hmode => ?_, fun hmode => ?_, fun hmode => ?_, fun hmode => ?_⟩
  · obtain ⟨hp, hm, hcs⟩ := modeOf_closed_iff.mp hmode
    exact modeOf_closed_iff.mpr ⟨h.transport hp, h.not_running hm, hc.trans hcs⟩
  · obtain ⟨hp, hm, hcs⟩ := modeOf_ready_iff.mp hmode
    exact modeOf_ready_iff.mpr ⟨h.transport hp, h.not_running hm, hc.trans hcs⟩
  · have hp := modeOf_transaction_iff.mp hmode
    by_cases hpt : t.phase = .idle
    · exact .inr (modeOf_ready_iff.mpr ⟨hpt, h.not_running (monitor_not_running hs hp), hc.trans (hs.busyIsOpen hp)⟩)
    · exact .inl (modeOf_transaction_iff.mpr hpt)
  · obtain ⟨hp, hm⟩ := modeOf_monitoring_iff.mp hmode
    obtain hmt | ⟨-, hmt⟩ := h.monitor
    · exact .inl (modeOf_monitoring_iff.mpr ⟨h.transport hp, hmt.trans hm⟩)
    · have hready := modeOf_ready_iff.mpr ⟨h.transport hp, by rw [hmt]; decide, hc.trans (hs.monitorExclusive hm).2⟩
      exact .inr ⟨hready, hmt⟩

theorem perform_reset_closes {e : Event} {s t : State} (h : perform e s = .next t) (hr : isReset e = true) :
    modeOf t = .closed := by
  cases e with
  | reset k => cases h; rfl
  | _ => cases hr

/-- Settles O58: Reset closes, a device event or a tick begins nothing, and a host event makes its command's move. -/
theorem modesFollowTheTable : Obligations.ModesFollowTheTable := by
  intro s t hs h
  obtain ⟨-, hen, hperf, inputs, draws, htake⟩ := step_takeEvent h
  have hinv : Inv (takeEvent s).2 := by rw [htake]; exact { hs with }
  have hmode : modeOf (takeEvent s).2 = modeOf s := by rw [htake]; rfl
  cases hr : isReset (takeEvent s).1 with
  | true =>
    have hclosed := perform_reset_closes hperf hr
    exact ⟨fun _ => .inl hclosed, fun _ => .inr (.inl ⟨hclosed, .inr rfl⟩), fun _ => .inr (.inr ⟨hclosed, rfl⟩),
      fun _ => .inr (.inr ⟨hclosed, rfl⟩)⟩
  | false =>
    cases he : isHostEvent (takeEvent s).1 with
    | false =>
      have hbegins := perform_device_beginsNothing hperf hen he hr
      have hmoves := hbegins.moves (perform_device_carries hperf he hr).conn hinv
      rw [hmode] at hmoves
      obtain ⟨hclosed, hready, htransaction, hmonitoring⟩ := hmoves
      exact ⟨fun hm => .inl (hclosed hm), fun hm => .inl (hready hm),
        fun hm => (htransaction hm).imp_right fun ht => .inl ⟨ht, rfl⟩,
        fun hm => (hmonitoring hm).imp_right fun ⟨ht, hstop⟩ => .inl ⟨ht, hstop, rfl⟩⟩
    | true =>
      have hmoves := perform_host_moves hperf he hinv
      rw [hmode] at hmoves
      obtain hsame | ⟨i, hi, hmove⟩ := hmoves
      · exact ⟨fun hm => .inl (hsame.trans hm), fun hm => .inl (hsame.trans hm), fun hm => .inl (hsame.trans hm),
          fun hm => .inl (hsame.trans hm)⟩
      · replace hi : stepCommand s = some i := hi
        rw [hi]
        generalize modeOf s = m, modeOf t = m' at hmove
        cases hmove with
        | opens hopen =>
          obtain ⟨p, rfl⟩ := hopen
          exact ⟨fun _ => .inr ⟨rfl, p, rfl⟩, nofun, nofun, nofun⟩
        | closes hclose =>
          subst hclose
          exact ⟨nofun, fun _ => .inr (.inl ⟨rfl, .inl rfl⟩), nofun, nofun⟩
        | transacts hbegins =>
          refine ⟨nofun, fun _ => .inr (.inr (.inl ⟨rfl, ?_⟩)), nofun, nofun⟩
          simpa [BeginsTransaction] using hbegins
        | monitors hstart =>
          obtain ⟨f, rfl⟩ := hstart
          exact ⟨nofun, fun _ => .inr (.inr (.inr ⟨rfl, f, rfl⟩)), nofun, nofun⟩

end Sys2Proof.Laws
end

section
/-! What the host reads after Reset (70_reset_and_hazards.md R302, 10_state.md R55). -/

namespace Sys2Proof.Laws

open Sys2Proof.Machine

/-- R26, R28: an entry of an empty buffer is UNWRITTEN. -/
theorem read_empty (a : Nat) : Memory.read [] a = none := rfl

/-- Settles O6: STATUS and CRC_ACC are evaluated at reset, the mode is read off its three fields, and both buffers are
empty. -/
theorem resetRegistersRead : Obligations.ResetRegistersRead := by
  unfold Obligations.ResetRegistersRead
  have hstatus : statusWord State.reset = 0x00000000 := by decide
  have hcrc : crcAccWord State.reset = 0x0000FFFF := by decide
  have hmode : modeOf State.reset = .closed := modeOf_closed_iff.mpr ⟨rfl, nofun, rfl⟩
  exact ⟨hstatus, hcrc, hmode, read_empty, read_empty⟩

end Sys2Proof.Laws
end

section
/-! The residual property of the CRC (40_crc.md R135). -/

namespace Sys2Proof.Laws

open Sys2Proof.Machine

/-- Only entry 0 of TABLE_LOW is 0 (R133). -/
theorem tableLow_eq_zero_iff : ∀ i : Byte, tableLow i = 0#8 ↔ i = 0#8 := by decide

/-- A byte equal to `acc_hi` looks up entry 0 of both tables, which is 0: `acc_lo` moves to `acc_hi` (R130). -/
theorem crcStep_byte_eq_hi (b c : Byte) : crcStep (b, c) b = (c, 0#8) := by
  have hhi : tableHi 0#8 = 0#8 := rfl
  have hlo : tableLow 0#8 = 0#8 := (tableLow_eq_zero_iff 0#8).mpr rfl
  simp only [crcStep, BitVec.xor_self, hhi, hlo, BitVec.xor_zero]

/-- A step ends at `(c, 0)` from one accumulator only: `acc_lo` is cleared only by the byte that equals `acc_hi`. -/
theorem crcStep_eq_low_zero_iff (acc : Byte × Byte) (b c : Byte) : crcStep acc b = (c, 0#8) ↔ acc = (b, c) := by
  obtain ⟨hi, lo⟩ := acc
  constructor
  · intro h
    have hlow : tableLow (hi ^^^ b) = 0#8 := congrArg Prod.snd h
    obtain rfl : hi = b := BitVec.xor_eq_zero_iff.mp ((tableLow_eq_zero_iff _).mp hlow)
    have hc : lo = c := congrArg Prod.fst ((crcStep_byte_eq_hi hi lo).symm.trans h)
    rw [hc]
  · rintro ⟨⟩
    exact crcStep_byte_eq_hi b c

theorem crc_append_pair (m : List Byte) (x y : Byte) : crc (m ++ [x, y]) = crcStep (crcStep (crc m) x) y :=
  List.foldl_append

/-- Settles O10: the last step ends at zero exactly from the accumulator `(y, 0)`, and the step before it ends there exactly
from `(x, y)`. -/
theorem crcResidualIsZeroOnlyForTheCrc : Obligations.CrcResidualIsZeroOnlyForTheCrc := by
  intro m x y
  calc crc (m ++ [x, y]) = (0, 0)
    _ ↔ crcStep (crcStep (crc m) x) y = (0, 0) := by rw [crc_append_pair]
    _ ↔ crcStep (crc m) x = (y, 0) := crcStep_eq_low_zero_iff _ y 0
    _ ↔ crc m = (x, y) := crcStep_eq_low_zero_iff _ x y
    _ ↔ (x, y) = crc m := eq_comm

end Sys2Proof.Laws
end
